-- ==== Sys2Proof/Word.lean ====
section
/-! DEFINITION. The word types of the core (00_scope.md R8, R9, R11): bytes, 16-bit words and the instruction's fields.
All values are unsigned and bit 0 is the least significant bit (R9). -/

namespace Sys2Proof

/-- An 8-bit value: a general register, a timer, a byte of memory (10_state.md R31, R42; 20_memory.md R70). -/
abbrev Byte := BitVec 8

/-- A 16-bit value: pc, I, IR, a return address (10_state.md R37, R40, R41, R43). -/
abbrev Word := BitVec 16

/-- A 4-bit instruction field: a register index X or Y, or the row count N (30_encoding.md R101). -/
abbrev Nibble := BitVec 4

/-- The 12-bit address field NNN (30_encoding.md R101). -/
abbrev Imm12 := BitVec 12

end Sys2Proof
end

