-- ==== Sys2Proof/Decode.lean ====
section
/-! DEFINITION. The decoder and dispatch MUX (30_encoding.md R104-R110), total and pure, and after it the opcode map
(R111) and the encoder. -/

namespace Sys2Proof

/-! ### The fields of an instruction word (R101) -/

/-- `F` = IR[15:12], the family. -/
def fieldF (w : Word) : Nibble := w.extractLsb' 12 4
/-- `X` = IR[11:8]. -/
def fieldX (w : Word) : Nibble := w.extractLsb' 8 4
/-- `Y` = IR[7:4]. -/
def fieldY (w : Word) : Nibble := w.extractLsb' 4 4
/-- `N` = IR[3:0]. -/
def fieldN (w : Word) : Nibble := w.extractLsb' 0 4
/-- `NN` = IR[7:0]. -/
def fieldNN (w : Word) : Byte := w.extractLsb' 0 8
/-- `NNN` = IR[11:0]. -/
def fieldNNN (w : Word) : Imm12 := w.extractLsb' 0 12

/-- What the decoder selects: one of the 34 operations, or the output `UNKNOWN` (R104, R110). -/
inductive Decoded where
  | op (i : Instr)
  | unknownOpcode
  deriving DecidableEq, Repr

/-! ### The two dispatch levels -/

/-- Family 0x0: all 16 bits are fixed (R106; 90_conflicts.md C2). -/
def decodeFamily0 (w : Word) : Decoded :=
  if w = 0x00E0#16 then .op .cls
  else if w = 0x00EE#16 then .op .ret
  else .unknownOpcode

/-- Families 0x5 and 0x9: only N = 0 is decoded (R109; 90_conflicts.md C2). -/
def decodeIfN0 (w : Word) (i : Instr) : Decoded :=
  if fieldN w = 0x0#4 then .op i else .unknownOpcode

/-- Family 0x8: second level on N (R107). -/
def decodeFamily8 (w : Word) : Decoded :=
  let n := fieldN w
  let x := fieldX w
  let y := fieldY w
  if n = 0x0#4 then .op (.ldReg x y)
  else if n = 0x1#4 then .op (.orReg x y)
  else if n = 0x2#4 then .op (.andReg x y)
  else if n = 0x3#4 then .op (.xorReg x y)
  else if n = 0x4#4 then .op (.addReg x y)
  else if n = 0x5#4 then .op (.subReg x y)
  else if n = 0x6#4 then .op (.shrReg x y)
  else if n = 0x7#4 then .op (.subnReg x y)
  else if n = 0xE#4 then .op (.shlReg x y)
  else .unknownOpcode

/-- Family 0xE: second level on NN (R108). -/
def decodeFamilyE (w : Word) : Decoded :=
  let nn := fieldNN w
  let x := fieldX w
  if nn = 0x9E#8 then .op (.skp x)
  else if nn = 0xA1#8 then .op (.sknp x)
  else .unknownOpcode

/-- Family 0xF: second level on NN (R108). -/
def decodeFamilyF (w : Word) : Decoded :=
  let nn := fieldNN w
  let x := fieldX w
  if nn = 0x07#8 then .op (.ldVxDt x)
  else if nn = 0x0A#8 then .op (.ldVxK x)
  else if nn = 0x15#8 then .op (.ldDtVx x)
  else if nn = 0x18#8 then .op (.ldStVx x)
  else if nn = 0x1E#8 then .op (.addI x)
  else if nn = 0x29#8 then .op (.ldF x)
  else if nn = 0x33#8 then .op (.ldB x)
  else if nn = 0x55#8 then .op (.storeRegs x)
  else if nn = 0x65#8 then .op (.loadRegs x)
  else .unknownOpcode

/-- The decoder: first level on the family nibble (R105). It reads the instruction word and nothing else (R104, R114). -/
def decode (w : Word) : Decoded :=
  let f := fieldF w
  if f = 0x0#4 then decodeFamily0 w
  else if f = 0x1#4 then .op (.jp (fieldNNN w))
  else if f = 0x2#4 then .op (.call (fieldNNN w))
  else if f = 0x3#4 then .op (.seImm (fieldX w) (fieldNN w))
  else if f = 0x4#4 then .op (.sneImm (fieldX w) (fieldNN w))
  else if f = 0x5#4 then decodeIfN0 w (.seReg (fieldX w) (fieldY w))
  else if f = 0x6#4 then .op (.ldImm (fieldX w) (fieldNN w))
  else if f = 0x7#4 then .op (.addImm (fieldX w) (fieldNN w))
  else if f = 0x8#4 then decodeFamily8 w
  else if f = 0x9#4 then decodeIfN0 w (.sneReg (fieldX w) (fieldY w))
  else if f = 0xA#4 then .op (.ldI (fieldNNN w))
  else if f = 0xB#4 then .op (.jpV0 (fieldNNN w))
  else if f = 0xC#4 then .op (.rnd (fieldX w) (fieldNN w))
  else if f = 0xD#4 then .op (.drw (fieldX w) (fieldY w) (fieldN w))
  else if f = 0xE#4 then decodeFamilyE w
  else decodeFamilyF w

/-- Byte 0 is the more significant byte of the instruction word (20_memory.md R75). -/
def wordOfBytes (b0 b1 : Byte) : Word := b0 ++ b1

/-- The decoder on the two bytes an instruction occupies in memory, the lower address first. -/
def decodeBytes (b0 b1 : Byte) : Decoded := decode (wordOfBytes b0 b1)

/-! ### The opcode map (R111) and the encoder -/

/-- A row of R111: `IR AND mask = match` selects it. -/
structure OpcodeRow where
  mnemonic : String
  matchBits : Word
  mask : Word
  deriving DecidableEq, Repr

/-- The row of R111 that an instruction belongs to; the mnemonics are those of opcode_table.json. -/
def Instr.row : Instr → OpcodeRow
  | .cls => ⟨"CLS", 0x00E0#16, 0xFFFF#16⟩
  | .ret => ⟨"RET", 0x00EE#16, 0xFFFF#16⟩
  | .jp _ => ⟨"JP_NNN", 0x1000#16, 0xF000#16⟩
  | .call _ => ⟨"CALL_NNN", 0x2000#16, 0xF000#16⟩
  | .seImm _ _ => ⟨"SE_VX__NN", 0x3000#16, 0xF000#16⟩
  | .sneImm _ _ => ⟨"SNE_VX__NN", 0x4000#16, 0xF000#16⟩
  | .seReg _ _ => ⟨"SE_VX__VY", 0x5000#16, 0xF00F#16⟩
  | .ldImm _ _ => ⟨"LD_VX__NN", 0x6000#16, 0xF000#16⟩
  | .addImm _ _ => ⟨"ADD_VX__NN", 0x7000#16, 0xF000#16⟩
  | .ldReg _ _ => ⟨"LD_VX__VY", 0x8000#16, 0xF00F#16⟩
  | .orReg _ _ => ⟨"OR_VX__VY", 0x8001#16, 0xF00F#16⟩
  | .andReg _ _ => ⟨"AND_VX__VY", 0x8002#16, 0xF00F#16⟩
  | .xorReg _ _ => ⟨"XOR_VX__VY", 0x8003#16, 0xF00F#16⟩
  | .addReg _ _ => ⟨"ADD_VX__VY", 0x8004#16, 0xF00F#16⟩
  | .subReg _ _ => ⟨"SUB_VX__VY", 0x8005#16, 0xF00F#16⟩
  | .shrReg _ _ => ⟨"SHR_VX__VY", 0x8006#16, 0xF00F#16⟩
  | .subnReg _ _ => ⟨"SUBN_VX__VY", 0x8007#16, 0xF00F#16⟩
  | .shlReg _ _ => ⟨"SHL_VX__VY", 0x800E#16, 0xF00F#16⟩
  | .sneReg _ _ => ⟨"SNE_VX__VY", 0x9000#16, 0xF00F#16⟩
  | .ldI _ => ⟨"LD_I__NNN", 0xA000#16, 0xF000#16⟩
  | .jpV0 _ => ⟨"JP_V0__NNN", 0xB000#16, 0xF000#16⟩
  | .rnd _ _ => ⟨"RND_VX__NN", 0xC000#16, 0xF000#16⟩
  | .drw _ _ _ => ⟨"DRW_VX__VY__N", 0xD000#16, 0xF000#16⟩
  | .skp _ => ⟨"SKP_VX", 0xE09E#16, 0xF0FF#16⟩
  | .sknp _ => ⟨"SKNP_VX", 0xE0A1#16, 0xF0FF#16⟩
  | .ldVxDt _ => ⟨"LD_VX__DT", 0xF007#16, 0xF0FF#16⟩
  | .ldVxK _ => ⟨"LD_VX__K", 0xF00A#16, 0xF0FF#16⟩
  | .ldDtVx _ => ⟨"LD_DT__VX", 0xF015#16, 0xF0FF#16⟩
  | .ldStVx _ => ⟨"LD_ST__VX", 0xF018#16, 0xF0FF#16⟩
  | .addI _ => ⟨"ADD_I__VX", 0xF01E#16, 0xF0FF#16⟩
  | .ldF _ => ⟨"LD_F__VX", 0xF029#16, 0xF0FF#16⟩
  | .ldB _ => ⟨"LD_B__VX", 0xF033#16, 0xF0FF#16⟩
  | .storeRegs _ => ⟨"LD__I___VX", 0xF055#16, 0xF0FF#16⟩
  | .loadRegs _ => ⟨"LD_VX___I", 0xF065#16, 0xF0FF#16⟩

/-- One instruction of each row, in the order of R111: the opcode map as a list is their rows. -/
def rowRepresentatives : List Instr :=
  [.cls, .ret, .jp 0, .call 0, .seImm 0 0, .sneImm 0 0, .seReg 0 0, .ldImm 0 0, .addImm 0 0] ++
  [.ldReg 0 0, .orReg 0 0, .andReg 0 0, .xorReg 0 0, .addReg 0 0, .subReg 0 0, .shrReg 0 0, .subnReg 0 0, .shlReg 0 0] ++
  [.sneReg 0 0, .ldI 0, .jpV0 0, .rnd 0 0, .drw 0 0 0, .skp 0, .sknp 0] ++
  [.ldVxDt 0, .ldVxK 0, .ldDtVx 0, .ldStVx 0, .addI 0, .ldF 0, .ldB 0, .storeRegs 0, .loadRegs 0]

/-- The opcode map of R111: 34 rows. -/
def opcodeMap : List OpcodeRow := rowRepresentatives.map Instr.row

/-- Format `NNN` (R102): `base | NNN`. -/
def wordNNN (base : Word) (nnn : Imm12) : Word := base ||| nnn.setWidth 16
/-- Format `XNN` (R102): `base | X<<8 | NN`. -/
def wordXNN (base : Word) (x : Nibble) (nn : Byte) : Word := base ||| x.setWidth 16 <<< 8 ||| nn.setWidth 16
/-- Format `XY` (R102): `base | X<<8 | Y<<4`. -/
def wordXY (base : Word) (x y : Nibble) : Word := base ||| x.setWidth 16 <<< 8 ||| y.setWidth 16 <<< 4
/-- Format `XYN` (R102): `base | X<<8 | Y<<4 | N`. -/
def wordXYN (base : Word) (x y n : Nibble) : Word :=
  base ||| x.setWidth 16 <<< 8 ||| y.setWidth 16 <<< 4 ||| n.setWidth 16
/-- Format `X` (R102): `base | X<<8`. -/
def wordX (base : Word) (x : Nibble) : Word := base ||| x.setWidth 16 <<< 8

/-- The encoder: each instruction's word as its own rule gives it under "Encoding". -/
def encode : Instr → Word
  | .cls => 0x00E0#16
  | .ret => 0x00EE#16
  | .jp nnn => wordNNN 0x1000#16 nnn
  | .call nnn => wordNNN 0x2000#16 nnn
  | .seImm x nn => wordXNN 0x3000#16 x nn
  | .sneImm x nn => wordXNN 0x4000#16 x nn
  | .seReg x y => wordXY 0x5000#16 x y
  | .ldImm x nn => wordXNN 0x6000#16 x nn
  | .addImm x nn => wordXNN 0x7000#16 x nn
  | .ldReg x y => wordXY 0x8000#16 x y
  | .orReg x y => wordXY 0x8001#16 x y
  | .andReg x y => wordXY 0x8002#16 x y
  | .xorReg x y => wordXY 0x8003#16 x y
  | .addReg x y => wordXY 0x8004#16 x y
  | .subReg x y => wordXY 0x8005#16 x y
  | .shrReg x y => wordXY 0x8006#16 x y
  | .subnReg x y => wordXY 0x8007#16 x y
  | .shlReg x y => wordXY 0x800E#16 x y
  | .sneReg x y => wordXY 0x9000#16 x y
  | .ldI nnn => wordNNN 0xA000#16 nnn
  | .jpV0 nnn => wordNNN 0xB000#16 nnn
  | .rnd x nn => wordXNN 0xC000#16 x nn
  | .drw x y n => wordXYN 0xD000#16 x y n
  | .skp x => wordX 0xE09E#16 x
  | .sknp x => wordX 0xE0A1#16 x
  | .ldVxDt x => wordX 0xF007#16 x
  | .ldVxK x => wordX 0xF00A#16 x
  | .ldDtVx x => wordX 0xF015#16 x
  | .ldStVx x => wordX 0xF018#16 x
  | .addI x => wordX 0xF01E#16 x
  | .ldF x => wordX 0xF029#16 x
  | .ldB x => wordX 0xF033#16 x
  | .storeRegs x => wordX 0xF055#16 x
  | .loadRegs x => wordX 0xF065#16 x

/-- The two bytes of an instruction word as memory holds them, the lower address first (20_memory.md R75). -/
def bytesOfWord (w : Word) : Byte × Byte := (w.extractLsb' 8 8, w.extractLsb' 0 8)

/-- The instruction the decoder reads from the word `w` as spec/opcode_table.json numbers its bits: the row's one 16-bit
word (every row has 16 bits, so `nbits` adds nothing), laid out big-endian and decoded. -/
def decodeTableWord (nbits w : Nat) : Option Instr :=
  let word : Word := BitVec.ofNat 16 (w % 2 ^ nbits)
  match decodeBytes (bytesOfWord word).1 (bytesOfWord word).2 with
  | .op i => some i
  | .unknownOpcode => none

end Sys2Proof
end

