-- ==== Sys2Proof/Machine/Flags.lean ====
section
/-! DEFINITION. The flag register and every flag value an instruction writes (10_state.md R34, R35), computed from the
operands before the operation, on unreduced integers (00_scope.md R11, 41_alu.md R192). -/

namespace Sys2Proof.Machine

/-- The flag register is V[0xF] (10_state.md R34, decision D1). -/
def flagReg : Nibble := 0xF#4

/-- A flag as the byte the flag register receives. -/
def flagByte (f : Bool) : Byte := if f then 1#8 else 0#8

/-- 8XY4: the 9-bit sum exceeds 255 (41_alu.md R187). -/
def carryFlag (a b : Byte) : Bool := decide (a.toNat + b.toNat > 255)

/-- 8XY5: no borrow, a ≥ b (41_alu.md R188). -/
def noBorrowFlag (a b : Byte) : Bool := decide (a.toNat ≥ b.toNat)

/-- 8XY7: a < b, strict as the source states it (41_alu.md R190, decision D24). -/
def lessFlag (a b : Byte) : Bool := decide (a.toNat < b.toNat)

/-- 8XY6: the bit shifted out to the right (41_alu.md R189). -/
def shiftedOutRight (a : Byte) : Bool := a.getLsbD 0

/-- 8XYE: the bit shifted out to the left (41_alu.md R191). -/
def shiftedOutLeft (a : Byte) : Bool := a.getLsbD 7

/-- FX1E: the new I exceeds 0x0FFF (42_index_memory.md R222). -/
def indexOverflowFlag (newI : Word) : Bool := decide (newI.toNat > 0x0FFF)

end Sys2Proof.Machine
end

