-- ==== Sys2Proof/Config.lean ====
section
/-! DEFINITION. What is fixed for a run (the parameters of 00_scope.md R8 and the quirks of 10_state.md R50), and the
free values: what the spec leaves open and no rule decides (93_implementation_defined.md U2-U5). -/

namespace Sys2Proof

/-- The quirk configuration (10_state.md R50, R51): four independent Booleans, every combination legal. -/
structure Quirks where
  /-- 8XY6 and 8XYE shift V[Y] instead of V[X]. -/
  copyRegistersOnShift : Bool
  /-- BNNN adds V[NNN[11:8]] instead of V[0]. -/
  variableOffsetRegister : Bool
  /-- FX1E leaves V[0xF] unchanged. -/
  disableSetFlagOnIrOverflow : Bool
  /-- FX55 and FX65 leave I advanced by X. -/
  incrementIndexRegisterOnLoadSave : Bool
  deriving DecidableEq, Repr

/-- The defaults of 10_state.md R50: only `CopyRegistersOnShift` is true. -/
def Quirks.default : Quirks := ⟨true, false, false, false⟩

/-- The `cfg_quirks` port: bits 0 to 3 as 10_state.md R50 numbers them. -/
def Quirks.ofBits (c : BitVec 4) : Quirks :=
  ⟨c.getLsbD 0, c.getLsbD 1, c.getLsbD 2, c.getLsbD 3⟩

/-- The OPEN parameters of 00_scope.md R8 that instructions use. -/
structure Params where
  /-- `FONT_BASE`, the address of glyph 0 (70_reset_and_hazards.md R353). -/
  fontBase : Nat
  /-- `STACK_DEPTH`: `none` is the source's unbounded stack, `some d` a finite realization (10_state.md R43, R44). -/
  stackDepth : Option Nat
  deriving DecidableEq, Repr

/-- The defaults of 00_scope.md R8: FONT_BASE = 0x000, an unbounded stack. -/
def Params.default : Params := ⟨0, none⟩

/-- `ROM_OVERSIZE` (00_scope.md R8; 70_reset_and_hazards.md R352). -/
inductive RomOversize where
  | reject
  | truncate
  deriving DecidableEq, Repr

/-- The trigger a step services (70_reset_and_hazards.md R370; the event ports of 60_exceptions.md R334). -/
inductive Tick where
  /-- `instr_tick`: one instruction step. -/
  | instruction
  /-- `timer_tick`: one timer step. -/
  | timer
  /-- `cancel`: the run is cancelled (60_exceptions.md R328). -/
  | cancel
  deriving DecidableEq, Repr, Inhabited

/-- Free: the trigger serviced at step `n`, when the state's `inputs` do not say (U4, U5: "either order is acceptable",
any number of timer steps between two instruction steps; log 3). -/
opaque Config.freeTick : Nat → Tick

/-- Free: what `pressed_keys()` answers at step `n`, in the order the driver reports it (U1, U2: "order irrelevant";
values outside 0..15 are possible and are filtered, 44_keys_timers.md R281; log 3). -/
opaque Config.freeKeys : Nat → List Nat

/-- Free: the random byte at step `n` (U3; 41_alu.md R196; log 3). -/
opaque Config.freeRand : Nat → Byte

end Sys2Proof
end

