-- ==== Sys2Proof/Machine/State.lean ====
section
/-! DEFINITION. The state of the core (10_state.md R30), the reasons a step stops, and the state after reset (R55). -/

namespace Sys2Proof.Machine

/-- Memory as a canonical list of (address, byte); Machine/Memory.lean gives its reads, writes and canonical form. -/
abbrev Memory := List Host.Cell

/-- The display buffer: 32 rows, row y from the top; bit x of a row is the cell in column x (10_state.md R45, R46). -/
abbrev Frame := Vector (BitVec 64) 32

/-- The register file V0..VF (10_state.md R31). -/
abbrev RegFile := Vector Byte 16

/-- The run state (10_state.md R48). -/
inductive RunState where
  | running
  | stopped
  deriving DecidableEq, Repr

/-- The fatal faults of an instruction step (10_state.md R49; 60_exceptions.md R314). They are taken by
`State.raise`, a next state; they are not outcomes of a step. -/
inductive FaultCause where
  | unknownOpcode
  | stackUnderflow
  | stackOverflow
  deriving DecidableEq, Repr

/-- The fault record: the cause, `pc_fetch` and IR (60_exceptions.md R312, R314). -/
structure FaultRecord where
  cause : FaultCause
  pc : Word
  instruction : Word
  deriving DecidableEq, Repr

/-- What the boundary's input ports carry during one step (60_exceptions.md R334): the trigger serviced, the driver's
answer to a key query in the order it reports it, and the random byte. Inputs of the step, not state of the block
(10_state.md R54); log 3. -/
structure Input where
  tick : Tick
  keys : List Nat
  rand : Byte
  deriving DecidableEq, Repr

/-- The reasons there is no next state. -/
inductive Fault where
  /-- Raised by `step` on a state that is `Stopped`: "In `Stopped` no step of any kind happens" (10_state.md R48). Safe:
  the hardware makes no step either. -/
  | stopped
  /-- Raised by `construct` for a ROM longer than 3584 bytes under ROM_OVERSIZE = Reject (60_exceptions.md R318). Safe:
  the hardware starts no run either. -/
  | romTooLarge
  deriving DecidableEq, Repr

/-- The reasons the model declines. -/
inductive Refusal where
  /-- An arm of `exec` without a meaning; no arm is refused in this model. Safe. -/
  | notModelled (mnemonic : String)
  /-- Raised by `construct` for a FONT_BASE that breaks "FONT_BASE + 80 ≤ 0x200 must hold" (70_reset_and_hazards.md
  R353), an input the spec excludes. Safe: no claim about such a machine can be proved. -/
  | fontOutOfRange
  deriving DecidableEq, Repr


/-- The architectural state of 10_state.md R30, with `pc_fetch` (R37), the parameters of 00_scope.md R8, and the three
fields of the model's own that stand for the boundary (`inputs`, `now`, `published`; logs 3 and 4). -/
structure State where
  /-- V0..VF. -/
  v : RegFile
  /-- The program counter. -/
  pc : Word
  /-- The address the current instruction was fetched from (R37). -/
  pcFetch : Word
  /-- The index register I. -/
  idx : Word
  /-- The current-instruction buffer IR. -/
  ir : Word
  /-- The delay timer DT. -/
  dt : Byte
  /-- The sound timer ST. -/
  st : Byte
  /-- The call stack, its top first (R43). -/
  stack : List Word
  /-- The 4096-byte memory. -/
  mem : Memory
  /-- The display buffer. -/
  fb : Frame
  /-- The quirk configuration, fixed for the run (R50, R51). -/
  quirks : Quirks
  /-- The run-time parameters, fixed for the run (00_scope.md R8). -/
  params : Params
  /-- The run state (R48). -/
  runState : RunState
  /-- The fault record (R49). -/
  fault : Option FaultRecord
  /-- The tone output level (R53). -/
  tone : Bool
  /-- The model's own: the inputs of the coming steps, as far as they are given. -/
  inputs : List Input
  /-- The model's own: how many steps were taken; it indexes the free inputs once `inputs` is used up. -/
  now : Nat
  /-- The model's own: the frames published so far, the newest first. -/
  published : List Frame
  deriving DecidableEq, Repr

/-- The state right after construction with the default quirks and parameters and an empty ROM (10_state.md R55).
Memory lists nothing: an unlisted address reads as its reset contents. -/
def State.reset : State where
  v := Vector.replicate 16 0x00#8
  pc := 0x0200#16
  pcFetch := 0x0000#16
  idx := 0x0000#16
  ir := 0x0000#16
  dt := 0x00#8
  st := 0x00#8
  stack := []
  mem := []
  fb := Vector.replicate 32 0#64
  quirks := Quirks.default
  params := Params.default
  runState := .running
  fault := none
  tone := false
  inputs := []
  now := 0
  published := []

end Sys2Proof.Machine
end

