-- ==== Sys2Proof/Machine/Memory.lean ====
section
/-! DEFINITION. The memory: its reset contents, reading and writing one byte, the canonical form (20_memory.md R70, R72,
R78, R79; 70_reset_and_hazards.md R353). Addresses here are already reduced modulo 4096. -/

namespace Sys2Proof.Machine

/-- The 16 font glyphs 0-F of the default FONT_DATA, 5 bytes each (70_reset_and_hazards.md R353). -/
def fontGlyphs : List (List Byte) :=
  [[0xF0, 0x90, 0x90, 0x90, 0xF0], [0x20, 0x60, 0x20, 0x20, 0x70],
   [0xF0, 0x10, 0xF0, 0x80, 0xF0], [0xF0, 0x10, 0xF0, 0x10, 0xF0]] ++
  [[0x90, 0x90, 0xF0, 0x10, 0x10], [0xF0, 0x80, 0xF0, 0x10, 0xF0],
   [0xF0, 0x80, 0xF0, 0x90, 0xF0], [0xF0, 0x10, 0x20, 0x40, 0x40]] ++
  [[0xF0, 0x90, 0xF0, 0x90, 0xF0], [0xF0, 0x90, 0xF0, 0x10, 0xF0],
   [0xF0, 0x90, 0xF0, 0x90, 0x90], [0xE0, 0x90, 0xE0, 0x90, 0xE0]] ++
  [[0xF0, 0x80, 0x80, 0x80, 0xF0], [0xE0, 0x90, 0x90, 0x90, 0xE0],
   [0xF0, 0x80, 0xF0, 0x80, 0xF0], [0xF0, 0x80, 0xF0, 0x80, 0x80]]

/-- The default FONT_DATA, 80 bytes in digit order. -/
def fontData : List Byte := fontGlyphs.flatten

/-- What an address that memory does not list reads as: its contents after construction with the default parameters and
an empty ROM (10_state.md R55), the font at 0x000 and 0x00 elsewhere. -/
def Memory.unlisted (a : Nat) : Byte := fontData.getD a 0x00#8

/-- The byte at address `a`. -/
def Memory.read : Memory → Nat → Byte
  | [], a => Memory.unlisted a
  | (k, b) :: m, a => if k = a then b else Memory.read m a

/-- Store `b` at address `a`, keeping the canonical form: an entry equal to what the address reads as unlisted is removed. -/
def Memory.write : Memory → Nat → Byte → Memory
  | [], a, b => if b = Memory.unlisted a then [] else [(a, b)]
  | (k, c) :: m, a, b =>
    if a < k then (if b = Memory.unlisted a then (k, c) :: m else (a, b) :: (k, c) :: m)
    else if a = k then (if b = Memory.unlisted a then m else (a, b) :: m)
    else (k, c) :: Memory.write m a b

/-- The canonical form: addresses below 4096 and strictly rising, no entry equal to its address's unlisted byte. -/
def Memory.wf : Memory → Bool
  | [] => true
  | (k, b) :: m => decide (k < 4096) && decide (b ≠ Memory.unlisted k) && m.all (fun c => decide (k < c.1)) && Memory.wf m

/-- Store bytes at consecutive addresses from `base` upwards, each address reduced modulo 4096 on its own (20_memory.md
R72, R76). -/
def Memory.writeList (m : Memory) (base : Nat) : List Byte → Memory
  | [] => m
  | b :: bs => Memory.writeList (m.write (base % 4096) b) (base + 1) bs

end Sys2Proof.Machine
end

