-- ==== Sys2Proof/Machine/Ops.lean ====
section
/-! DEFINITION. The named operations over the state: registers, memory, the stack, taking a fault, the fetch, the timer
step, the boundary. There is no return from a fault to model: "Trap return: none exists" (60_exceptions.md R326). -/

namespace Sys2Proof.Machine

/-- The outcome of a meaning. -/
abbrev Result := Host.Outcome State Fault Refusal

/-! ### Registers (10_state.md R31, R32) -/

/-- Read V[x]. -/
def State.reg (s : State) (x : Nibble) : Byte := s.v[x.toNat]'x.isLt

/-- Write V[x]. -/
def State.setReg (s : State) (x : Nibble) (b : Byte) : State := { s with v := s.v.set x.toNat b x.isLt }

/-- Write a flag to the flag register (10_state.md R34). -/
def State.setFlag (s : State) (f : Bool) : State := s.setReg flagReg (flagByte f)

/-- Write a result to V[x] and then the flag to V[0xF], both computed before (10_state.md R36, decision D2). -/
def State.setRegFlag (s : State) (x : Nibble) (b : Byte) (f : Bool) : State := (s.setReg x b).setFlag f

/-- Write I. -/
def State.setIdx (s : State) (w : Word) : State := { s with idx := w }

/-- Write pc. -/
def State.setPc (s : State) (w : Word) : State := { s with pc := w }

/-- Write DT. -/
def State.setDt (s : State) (b : Byte) : State := { s with dt := b }

/-- Write ST. -/
def State.setSt (s : State) (b : Byte) : State := { s with st := b }

/-- `Skip()`: pass over the next instruction, modulo 65536 (40_control_flow.md R141). -/
def State.skip (s : State) : State := s.setPc (s.pc + 2#16)

/-- Skip if the condition holds. -/
def State.skipIf (s : State) (c : Bool) : State := if c then s.skip else s

/-! ### Memory (00_scope.md R10, 20_memory.md R72) -/

/-- `MemRead(addr, 1)`: the byte at `addr mod 4096`. -/
def State.memRead (s : State) (addr : Nat) : Byte := Memory.read s.mem (addr % 4096)

/-- `MemWrite` of consecutive bytes from `addr` upwards, each address modulo 4096. -/
def State.memWrite (s : State) (addr : Nat) (bs : List Byte) : State :=
  { s with mem := Memory.writeList s.mem addr bs }

/-- V[0], …, V[n-1] in that order. -/
def State.firstRegs (s : State) (n : Nat) : List Byte := (List.range n).map (fun k => s.reg (BitVec.ofNat 4 k))

/-- Load V[0], …, V[n-1] in that order from consecutive bytes at `addr` upwards (42_index_memory.md R226). -/
def State.loadFirstRegs (s : State) (addr : Nat) : Nat → State
  | 0 => s
  | n + 1 => (s.loadFirstRegs addr n).setReg (BitVec.ofNat 4 n) (s.memRead (addr + n))

/-! ### Faults (60_exceptions.md R310-R317) -/

/-- TAKING A FAULT: the record gets the cause, pc_fetch and IR, and the run state becomes Stopped (R311, R312). Nothing
else changes (R313), the tone keeps its level (decision D16) and nothing is signalled. -/
def State.raise (s : State) (c : FaultCause) : State :=
  { s with fault := some ⟨c, s.pcFetch, s.ir⟩, runState := .stopped }

/-- The end of an operation that may raise: its next state, or the fault taken in the state before it. -/
def State.complete (s : State) : Except FaultCause State → Result
  | .ok t => .next t
  | .error c => .next (s.raise c)

/-! ### The call stack (10_state.md R43, R44) -/

/-- `Push(v)`: StackOverflow when the stack is finite and full, before any change. -/
def State.push (s : State) (v : Word) : Except FaultCause State :=
  if s.params.stackDepth = some s.stack.length then .error .stackOverflow
  else .ok { s with stack := v :: s.stack }

/-- `pc <- Pop()`: StackUnderflow when the stack is empty. -/
def State.popPc (s : State) : Except FaultCause State :=
  match s.stack with
  | [] => .error .stackUnderflow
  | a :: rest => .ok { s with pc := a, stack := rest }

/-! ### Fetch (20_memory.md R74, R75) -/

/-- Two bytes at pc into IR, pc advanced by 2 modulo 65536, pc_fetch kept (10_state.md R37). -/
def State.fetch (s : State) : State :=
  { s with
    pcFetch := s.pc
    ir := wordOfBytes (s.memRead s.pc.toNat) (s.memRead (s.pc.toNat + 1))
    pc := s.pc + 2#16 }

/-! ### The timer step and cancellation (60_exceptions.md R320, R322, R328) -/

/-- A timer decrements and saturates at 0 (10_state.md R42). -/
def timerDecrement (b : Byte) : Byte := if b = 0#8 then 0#8 else b - 1#8

/-- `TimerStep()`: both timers, then the tone follows ST (R320, R322). -/
def State.timerStep (s : State) : State :=
  { s with dt := timerDecrement s.dt, st := timerDecrement s.st, tone := decide (timerDecrement s.st ≠ 0#8) }

/-- Cancellation: Stopped, the record stays empty, the rest is frozen (R328). -/
def State.cancel (s : State) : State := { s with runState := .stopped }

/-! ### The boundary (60_exceptions.md R330-R334) -/

/-- The inputs of the coming step: those `inputs` gives, else the free values at `now` (log 3). -/
def State.input (s : State) : Input :=
  match s.inputs with
  | i :: _ => i
  | [] => ⟨Config.freeTick s.now, Config.freeKeys s.now, Config.freeRand s.now⟩

/-- The step is over: its inputs are used up. -/
def State.nextInput (s : State) : State := { s with inputs := s.inputs.tail, now := s.now + 1 }

/-- `PressedKeys()`: the driver's answer without the values outside 0..15 (44_keys_timers.md R281). -/
def State.pressedKeys (s : State) : List Nat := s.input.keys.filter (fun k => decide (k < 16))

/-- `RandomByte()` (41_alu.md R196). -/
def State.randomByte (s : State) : Byte := s.input.rand

/-- `PublishFrame(fb)`: a value copy of the display buffer goes to the boundary (60_exceptions.md R331). -/
def State.publish (s : State) : State := { s with published := s.fb :: s.published }

end Sys2Proof.Machine
end

