-- ==== Sys2Proof/Machine/Operands.lean ====
section
/-! DEFINITION. The operand forms that depend on the quirks, and the one addressing mode (30_encoding.md R103;
42_index_memory.md R227; 10_state.md R50). Register operands are `State.reg`; immediates are zero-extended. -/

namespace Sys2Proof.Machine

/-- `zext_16(NNN)` (30_encoding.md R103). -/
def addressOf (nnn : Imm12) : Word := nnn.setWidth 16

/-- The operand of 8XY6 and 8XYE: V[Y] under `CopyRegistersOnShift`, else V[X] (41_alu.md R189, R191). -/
def State.shiftSource (s : State) (x y : Nibble) : Byte :=
  if s.quirks.copyRegistersOnShift then s.reg y else s.reg x

/-- The register BNNN adds: V[NNN[11:8]] under `VariableOffsetRegister`, else V[0] (40_control_flow.md R151). -/
def State.jumpOffset (s : State) (nnn : Imm12) : Byte :=
  if s.quirks.variableOffsetRegister then s.reg (nnn.extractLsb' 8 4) else s.reg 0#4

/-- The address of byte `k` of an access through I, before its reduction modulo 4096 (42_index_memory.md R227). -/
def State.effective (s : State) (k : Nat) : Nat := s.idx.toNat + k

/-- I after FX55 and FX65: advanced by X under `IncrementIndexRegisterOnLoadSave`, modulo 65536 (42_index_memory.md R225,
R226, decision D24). -/
def State.indexAfterTransfer (s : State) (x : Nibble) : Word :=
  if s.quirks.incrementIndexRegisterOnLoadSave then s.idx + x.setWidth 16 else s.idx

/-- The address of the glyph of the low nibble of `a`: FONT_BASE + 5 * (a AND 0x0F) (42_index_memory.md R223). -/
def State.glyphAddress (s : State) (a : Byte) : Word := BitVec.ofNat 16 (s.params.fontBase + 5 * (a &&& 0x0F#8).toNat)

end Sys2Proof.Machine
end

