-- ==== Sys2Proof/Machine/Display.lean ====
section
/-! DEFINITION. The sprite blitter and the display buffer (43_sprite_display.md). The draw is the pixel loop of R254 as
the spec writes it; Laws/Display.lean says what it comes to, cell by cell. -/

namespace Sys2Proof.Machine

/-- The cell in column `x`, row `y`; `false` outside the 64×32 grid, which no rule reads (10_state.md R46). -/
def Frame.cell (fb : Frame) (x y : Nat) : Bool := if h : y < 32 then fb[y].getLsbD x else false

/-- `fb[y][x] <- fb[y][x] XOR 1`. -/
def Frame.flip (fb : Frame) (x y : Nat) : Frame :=
  if h : y < 32 then fb.set y (fb[y] ^^^ BitVec.twoPow 64 x) h else fb

/-- The buffer with every cell 0. -/
def Frame.clear : Frame := Vector.replicate 32 0#64

/-- One 1 bit of a sprite at column `x`, row `y`: clipped outside the grid (R255), else the cell is flipped and a cell
that was set is a collision (R257). The pair is the buffer and the collision seen so far. -/
def drawPixel (x y : Nat) (p : Frame × Bool) : Frame × Bool :=
  if x < 64 ∧ y < 32 then (Frame.flip p.1 x y, p.2 || Frame.cell p.1 x y) else p

/-- One row of a sprite, "most-significant bit first" (R254). -/
def drawRow (row : Byte) (x0 y : Nat) (p : Frame × Bool) : Frame × Bool :=
  (List.range 8).foldl (fun p c => if row.getLsbD (7 - c) then drawPixel (x0 + c) y p else p) p

/-- The first `n` rows of the sprite at `addr`, in order (R254). -/
def State.drawRows (s : State) (addr x0 y0 n : Nat) : Frame × Bool :=
  (List.range n).foldl (fun p r => drawRow (s.memRead (addr + r)) x0 (y0 + r) p) (s.fb, false)

/-- The starting column, V[X] mod 64 (R253). -/
def State.startColumn (s : State) (x : Nibble) : Nat := (s.reg x).toNat % 64

/-- The starting row, V[Y] mod 32 (R253). -/
def State.startRow (s : State) (y : Nibble) : Nat := (s.reg y).toNat % 32

/-- 00E0, clear screen, then publish (R251). -/
def execCls (s : State) : Result := .next ({ s with fb := Frame.clear }).publish

/-- DXYN, draw sprite: operands are read before V[0xF] is written (R252, decision D15); V[0xF] ends as the collision flag;
the frame is published once (R254, R258). -/
def execDrw (x y n : Nibble) (s : State) : Result :=
  let drawn := s.drawRows (s.effective 0) (s.startColumn x) (s.startRow y) n.toNat
  .next (({ s with fb := drawn.1 }).setFlag drawn.2).publish

end Sys2Proof.Machine
end

