-- ==== Sys2Proof/Machine/Boundary.lean ====
section
/-! DEFINITION. The boundary's outputs as views of the state (60_exceptions.md R331, R334), and what the host may make of
the published frames. -/

namespace Sys2Proof.Machine

/-- The `frame` port: bit 64y + x is fb[y][x] (60_exceptions.md R334). -/
def Frame.toPort (fb : Frame) : BitVec 2048 := BitVec.ofFnLE (fun k => Frame.cell fb (k.val % 64) (k.val / 64))

/-- The `keys` port as a list of pressed keys: bit k of the mask is key k held (60_exceptions.md R334). -/
def keysOfMask (mask : BitVec 16) : List Nat := (List.range 16).filter (fun k => mask.getLsbD k)

/-- The numeric fault codes (60_exceptions.md R314). -/
def FaultCause.code : FaultCause → BitVec 3
  | .unknownOpcode => 1#3
  | .stackUnderflow => 2#3
  | .stackOverflow => 3#3

/-- The code of the reason no state exists; only RomTooLarge has one (60_exceptions.md R314). -/
def Fault.code : Fault → Option (BitVec 3)
  | .romTooLarge => some 4#3
  | .stopped => none

/-- The output ports of 60_exceptions.md R334. `frameStrobes` counts the publish events so far; `faultPc` and `faultInstr`
carry a value only once there is a fault record. -/
structure Ports where
  frame : BitVec 2048
  frameStrobes : Nat
  tone : Bool
  running : Bool
  faultCode : BitVec 3
  faultPc : Option Word
  faultInstr : Option Word
  deriving DecidableEq, Repr

/-- The frame the boundary was given last; before the first publish, none. -/
def State.lastFrame (s : State) : Option Frame := s.published.head?

/-- The output ports in a state. -/
def State.ports (s : State) : Ports where
  frame := s.fb.toPort
  frameStrobes := s.published.length
  tone := s.tone
  running := decide (s.runState = .running)
  faultCode := (s.fault.map (fun r => r.cause.code)).getD 0#3
  faultPc := s.fault.map FaultRecord.pc
  faultInstr := s.fault.map FaultRecord.instruction

/-- What the host may have displayed once it has caught up: any subsequence of the published frames that ends with the
latest (60_exceptions.md R331, U10). Both lists have the newest frame first. -/
def HostMayDisplay (published shown : List Frame) : Prop :=
  shown.Sublist published ∧ shown.head? = published.head?

end Sys2Proof.Machine
end

