-- ==== Sys2Proof/WellFormed.lean ====
section
/-! DEFINITION. The checks on raw input. An `Instr` has no ill-formed term: its operands have exactly the widths of
their fields (10_state.md R32, 30_encoding.md R103). What can be ill-formed is an instruction word (30_encoding.md
R112) and the run's parameters (70_reset_and_hazards.md R353). -/

namespace Sys2Proof

/-- The legal instruction words, written from the list of illegal words of 30_encoding.md R112, family by family; it is
independent of the decoder, and a statement says that the two agree. -/
def legalWord (w : Word) : Bool :=
  let family := w.toNat / 0x1000
  let n := w.toNat % 0x10
  let nn := w.toNat % 0x100
  if family = 0x0 then w == 0x00E0#16 || w == 0x00EE#16
  else if family = 0x5 then n == 0
  else if family = 0x8 then ! [0x8, 0x9, 0xA, 0xB, 0xC, 0xD, 0xF].contains n
  else if family = 0x9 then n == 0
  else if family = 0xE then [0x9E, 0xA1].contains nn
  else if family = 0xF then [0x07, 0x0A, 0x15, 0x18, 0x1E, 0x29, 0x33, 0x55, 0x65].contains nn
  else true

/-- "FONT_BASE + 80 ≤ 0x200 must hold" (70_reset_and_hazards.md R353): the 16 glyphs lie below the ROM. -/
def Params.wellFormed (p : Params) : Bool := decide (p.fontBase + 80 ≤ 0x200)

end Sys2Proof
end

