-- ==== Sys2Proof/Machine/Construct.lean ====
section
/-! DEFINITION. Construction, the block's one reset (70_reset_and_hazards.md R350-R354): the ROM, the quirks and the OPEN
parameters become the state a run starts in. It is how a program comes to run (log 5). -/

namespace Sys2Proof.Machine

/-- The arguments of construction: the parameters and quirks, FONT_DATA, ROM_OVERSIZE and the ROM (00_scope.md R8;
70_reset_and_hazards.md R350). The clock rate belongs to the scheduler (R350). -/
structure Build where
  quirks : Quirks
  params : Params
  fontData : Vector Byte 80
  romOversize : RomOversize
  rom : List Byte
  deriving DecidableEq, Repr

/-- The default FONT_DATA as the 80 bytes construction takes. -/
def defaultFont : Vector Byte 80 := Vector.ofFn (fun k => fontData.getD k.val 0x00#8)

/-- The arguments when only a ROM is given (00_scope.md R8, 70_reset_and_hazards.md R351). -/
def Build.withRom (rom : List Byte) : Build := ⟨Quirks.default, Params.default, defaultFont, .reject, rom⟩

/-- Memory with every byte 0x00 (70_reset_and_hazards.md R354 step 1): beyond the default font an unlisted address reads
as 0x00 already, so only the font's addresses need writing. -/
def Memory.zeroed : Memory := Memory.writeList [] 0 (List.replicate fontData.length 0x00#8)

/-- The space the ROM is copied to holds 3584 bytes (70_reset_and_hazards.md R352). -/
def romSpace : Nat := 3584

/-- R354: zero memory, write the font, write the ROM, give every element its value of 10_state.md R55, run. A ROM longer
than the space is rejected, or its first 3584 bytes are taken (R352). -/
def construct (b : Build) : Result :=
  if b.params.wellFormed then
    if b.rom.length > romSpace ∧ b.romOversize = .reject then .fault .romTooLarge
    else
      .next { State.reset with
        quirks := b.quirks
        params := b.params
        mem := Memory.writeList (Memory.writeList Memory.zeroed b.params.fontBase b.fontData.toList) 0x200
          (b.rom.take romSpace) }
  else .refused .fontOutOfRange

end Sys2Proof.Machine
end

