-- ==== Sys2Proof/Machine/Alu.lean ====
section
/-! DEFINITION. The ALU instructions (41_alu.md). Every operand is read before any write (R180); V[X] is written first,
then V[0xF] (10_state.md R36). -/

namespace Sys2Proof.Machine

/-- 6XNN, load immediate (R181). -/
def execLdImm (x : Nibble) (nn : Byte) (s : State) : Result := .next (s.setReg x nn)

/-- 7XNN, add immediate modulo 256, no flag (R182). -/
def execAddImm (x : Nibble) (nn : Byte) (s : State) : Result := .next (s.setReg x (s.reg x + nn))

/-- 8XY0, assign (R183). -/
def execLdReg (x y : Nibble) (s : State) : Result := .next (s.setReg x (s.reg y))

/-- 8XY1, OR, no flag (R184, decision D4). -/
def execOrReg (x y : Nibble) (s : State) : Result := .next (s.setReg x (s.reg x ||| s.reg y))

/-- 8XY2, AND, no flag (R185, decision D4). -/
def execAndReg (x y : Nibble) (s : State) : Result := .next (s.setReg x (s.reg x &&& s.reg y))

/-- 8XY3, XOR, no flag (R186, decision D4). -/
def execXorReg (x y : Nibble) (s : State) : Result := .next (s.setReg x (s.reg x ^^^ s.reg y))

/-- 8XY4, add; the flag is the carry (R187). -/
def execAddReg (x y : Nibble) (s : State) : Result :=
  .next (s.setRegFlag x (s.reg x + s.reg y) (carryFlag (s.reg x) (s.reg y)))

/-- 8XY5, subtract; the flag is NOT borrow (R188). -/
def execSubReg (x y : Nibble) (s : State) : Result :=
  .next (s.setRegFlag x (s.reg x - s.reg y) (noBorrowFlag (s.reg x) (s.reg y)))

/-- 8XY6, shift right by one; the flag is the bit shifted out (R189, decision D3). -/
def execShrReg (x y : Nibble) (s : State) : Result :=
  .next (s.setRegFlag x (s.shiftSource x y >>> 1) (shiftedOutRight (s.shiftSource x y)))

/-- 8XY7, reverse subtract; the flag is a < b, strict (R190, decisions D3, D24). -/
def execSubnReg (x y : Nibble) (s : State) : Result :=
  .next (s.setRegFlag x (s.reg y - s.reg x) (lessFlag (s.reg x) (s.reg y)))

/-- 8XYE, shift left by one; the flag is the bit shifted out (R191, decision D3). -/
def execShlReg (x y : Nibble) (s : State) : Result :=
  .next (s.setRegFlag x (s.shiftSource x y <<< 1) (shiftedOutLeft (s.shiftSource x y)))

/-- CXNN, a random byte ANDed with NN, no flag (R196). -/
def execRnd (x : Nibble) (nn : Byte) (s : State) : Result := .next (s.setReg x (s.randomByte &&& nn))

end Sys2Proof.Machine
end

