-- ==== Sys2Proof/Machine/Control.lean ====
section
/-! DEFINITION. The control-flow instructions (40_control_flow.md). The fetch has already advanced pc (R140). -/

namespace Sys2Proof.Machine

/-- 00EE, return from subroutine (R144). -/
def execRet (s : State) : Result := s.complete s.popPc

/-- 1NNN, jump (R145). -/
def execJp (nnn : Imm12) (s : State) : Result := .next (s.setPc (addressOf nnn))

/-- 2NNN, call subroutine: the advanced pc is pushed (R146). -/
def execCall (nnn : Imm12) (s : State) : Result := s.complete ((s.push s.pc).map (fun t => t.setPc (addressOf nnn)))

/-- 3XNN, skip if V[X] = NN (R147). -/
def execSeImm (x : Nibble) (nn : Byte) (s : State) : Result := .next (s.skipIf (s.reg x == nn))

/-- 4XNN, skip if V[X] ≠ NN (R148). -/
def execSneImm (x : Nibble) (nn : Byte) (s : State) : Result := .next (s.skipIf (s.reg x != nn))

/-- 5XY0, skip if V[X] = V[Y] (R149). -/
def execSeReg (x y : Nibble) (s : State) : Result := .next (s.skipIf (s.reg x == s.reg y))

/-- 9XY0, skip if V[X] ≠ V[Y] (R150). -/
def execSneReg (x y : Nibble) (s : State) : Result := .next (s.skipIf (s.reg x != s.reg y))

/-- BNNN, jump with offset: at most 0x10FE, never reduced to 12 bits (R151). -/
def execJpV0 (nnn : Imm12) (s : State) : Result :=
  .next (s.setPc (addressOf nnn + (s.jumpOffset nnn).setWidth 16))

end Sys2Proof.Machine
end

