-- ==== Sys2Proof/Machine/Index.lean ====
section
/-! DEFINITION. The index register and the memory transfers (42_index_memory.md). -/

namespace Sys2Proof.Machine

/-- ANNN, load index (R221). -/
def execLdI (nnn : Imm12) (s : State) : Result := .next (s.setIdx (addressOf nnn))

/-- FX1E, add V[X] to I modulo 65536; the flag tests the new I, unless the quirk disables it (R222, decision D7). -/
def execAddI (x : Nibble) (s : State) : Result :=
  let newI := s.idx + (s.reg x).setWidth 16
  .next (if s.quirks.disableSetFlagOnIrOverflow then s.setIdx newI
    else (s.setIdx newI).setFlag (indexOverflowFlag newI))

/-- FX29, point I at the glyph of V[X]'s low nibble (R223). -/
def execLdF (x : Nibble) (s : State) : Result := .next (s.setIdx (s.glyphAddress (s.reg x)))

/-- The three decimal digits of a byte, hundreds first (R224). -/
def bcdDigits (a : Byte) : List Byte :=
  [BitVec.ofNat 8 (a.toNat / 100), BitVec.ofNat 8 (a.toNat / 10 % 10), BitVec.ofNat 8 (a.toNat % 10)]

/-- FX33, binary-coded decimal of V[X] at I, I+1, I+2 (R224). -/
def execLdB (x : Nibble) (s : State) : Result := .next (s.memWrite (s.effective 0) (bcdDigits (s.reg x)))

/-- FX55, store V[0]..V[X] from I upwards (R225). -/
def execStoreRegs (x : Nibble) (s : State) : Result :=
  .next ((s.memWrite (s.effective 0) (s.firstRegs (x.toNat + 1))).setIdx (s.indexAfterTransfer x))

/-- FX65, load V[0]..V[X] from I upwards (R226). -/
def execLoadRegs (x : Nibble) (s : State) : Result :=
  .next ((s.loadFirstRegs (s.effective 0) (x.toNat + 1)).setIdx (s.indexAfterTransfer x))

end Sys2Proof.Machine
end

