-- ==== Sys2Proof/Machine/Keys.lean ====
section
/-! DEFINITION. Key input and timer access (44_keys_timers.md). -/

namespace Sys2Proof.Machine

/-- EX9E, skip if the key V[X] is pressed (R282). -/
def execSkp (x : Nibble) (s : State) : Result := .next (s.skipIf (s.pressedKeys.contains (s.reg x).toNat))

/-- EXA1, skip if the key V[X] is not pressed (R283). -/
def execSknp (x : Nibble) (s : State) : Result := .next (s.skipIf (! s.pressedKeys.contains (s.reg x).toNat))

/-- FX07, read the delay timer (R284). -/
def execLdVxDt (x : Nibble) (s : State) : Result := .next (s.setReg x s.dt)

/-- FX0A, wait for a key: no key rewinds pc by 2, else V[X] gets "the first reported key's value"; the report's order is
free (R285, decision D17). -/
def execLdVxK (x : Nibble) (s : State) : Result :=
  .next (match s.pressedKeys with
    | [] => s.setPc (s.pc - 2#16)
    | k :: _ => s.setReg x (BitVec.ofNat 8 k))

/-- FX15, set the delay timer (R286). -/
def execLdDtVx (x : Nibble) (s : State) : Result := .next (s.setDt (s.reg x))

/-- FX18, set the sound timer; the tone changes only at a timer step (R287). -/
def execLdStVx (x : Nibble) (s : State) : Result := .next (s.setSt (s.reg x))

end Sys2Proof.Machine
end

