-- ==== Sys2Proof/Machine/Step.lean ====
section
/-! DEFINITION. One step: the service of one trigger (70_reset_and_hazards.md R370), an instruction step, a timer step or
the cancellation. -/

namespace Sys2Proof.Machine

/-- One instruction step: fetch, decode, dispatch; an illegal word raises UnknownOpcode (20_memory.md R74; 30_encoding.md
R104; 60_exceptions.md R315). -/
def instructionStep (s : State) : Result :=
  match decode s.fetch.ir with
  | .op i => exec i s.fetch
  | .unknownOpcode => .next (s.fetch.raise .unknownOpcode)

/-- The end of every step: its inputs are used up. -/
def endStep : Result → Result
  | .next s => .next s.nextInput
  | .fault r => .fault r
  | .refused r => .refused r

/-- One step of the machine. A stopped machine makes none (10_state.md R48). -/
def step (s : State) : Host.Outcome State Fault Refusal :=
  match s.runState with
  | .stopped => .fault .stopped
  | .running =>
    match s.input.tick with
    | .instruction => endStep (instructionStep s)
    | .timer => endStep (.next s.timerStep)
    | .cancel => endStep (.next s.cancel)

/-- `s` with the 16-bit instruction word `w` (every row of the table has 16 bits) stored big-endian at pc, where the next
fetch reads, and with what a fetch needs: the machine runs (and so has no fault record, 10_state.md R49) and the coming
step services an instruction tick. The step's keys and random byte stay as they were, given or free. -/
def State.withFetchWord (s : State) (nbits w : Nat) : State :=
  let word : Word := BitVec.ofNat 16 (w % 2 ^ nbits)
  let bytes := bytesOfWord word
  { s.memWrite s.pc.toNat [bytes.1, bytes.2] with
    runState := .running
    fault := none
    inputs := { s.input with tick := .instruction } :: s.inputs.tail }

end Sys2Proof.Machine
end

