-- ==== Sys2Proof/Safety.lean ====
section
/-! DEFINITION. The terms claims use: the invariant every state of a run meets, the states a run reaches, a run that has
not failed, the frame of an instruction that writes registers only, and the cells a sprite covers. -/

namespace Sys2Proof.Machine

/-- The invariant of the core's states. -/
structure State.Inv (s : State) : Prop where
  /-- Memory is in its canonical form, all addresses below 4096 (20_memory.md R70). -/
  memory : Memory.wf s.mem = true
  /-- The font lies below the ROM (70_reset_and_hazards.md R353). -/
  params : s.params.wellFormed = true
  /-- A finite stack never holds more than STACK_DEPTH entries (10_state.md R44). -/
  stack : ∀ d, s.params.stackDepth = some d → s.stack.length ≤ d
  /-- "The record is empty while `Running`" (10_state.md R49). -/
  runningNoFault : s.runState = .running → s.fault = none
  /-- Faults are precise: IR holds the faulting word and pc is pc_fetch + 2 (60_exceptions.md R313). -/
  precise : ∀ r, s.fault = some r → s.ir = r.instruction ∧ s.pc = r.pc + 2#16

/-- The states a run reaches: construction with any arguments and any boundary inputs, then steps. -/
inductive Reachable : State → Prop where
  | start (b : Build) (s : State) (inputs : List Input) : construct b = .next s → Reachable { s with inputs := inputs }
  | step (s t : State) : Reachable s → Machine.step s = .next t → Reachable t

/-- The frame of an instruction that writes general registers and nothing else: the registers outside `written` are
unchanged, every byte of memory reads as before, and every other field is the same. -/
def OnlyRegisters (s t : State) (written : List Nibble) : Prop :=
  (∀ r, r ∉ written → t.reg r = s.reg r) ∧ (∀ a, t.memRead a = s.memRead a) ∧ t = { s with v := t.v }

/-- Whether the sprite of `n` rows at `addr`, started at column `x0` and row `y0`, has a 1 bit on the cell in column `px`,
row `py` (43_sprite_display.md R254: one byte a row, the most significant bit leftmost). -/
def State.spriteBit (s : State) (addr x0 y0 n px py : Nat) : Bool :=
  decide (x0 ≤ px ∧ px < x0 + 8 ∧ y0 ≤ py ∧ py < y0 + n) && (s.memRead (addr + (py - y0))).getLsbD (7 - (px - x0))

/-- A state of a run that no fault has ended (60_exceptions.md R311). -/
def State.Safe (s : State) : Prop := s.fault = none

end Sys2Proof.Machine
end

