-- ==== Sys2Proof/Certificates/Slice0/Obligations.lean ====
section
/-! DEFINITION. The statements for the provers. Each docstring names the rule of spec/ it formalises, and the spec's own
decision (D<n> of 92_eei_decisions.md) or the model's log entry where it rests on one. -/

open Sys2Proof Sys2Proof.Machine

/-! ### Reset and construction -/

/-- 10_state.md R55 for an empty ROM and the default parameters. R55's values are the spec's decisions D8-D11; the font
bytes are those of 70_reset_and_hazards.md R353. Reset is construction with the defaults (log 5). -/
def Obligations.ResetHoldsTheSpecValues : Prop :=
  (∀ r, State.reset.reg r = 0x00#8) ∧ State.reset.pc = 0x0200#16 ∧ State.reset.idx = 0x0000#16 ∧
  State.reset.ir = 0x0000#16 ∧ State.reset.dt = 0x00#8 ∧ State.reset.st = 0x00#8 ∧ State.reset.stack = [] ∧
  (∀ x y, Frame.cell State.reset.fb x y = false) ∧
  (List.range 80).map State.reset.memRead =
    [0xF0, 0x90, 0x90, 0x90, 0xF0, 0x20, 0x60, 0x20, 0x20, 0x70, 0xF0, 0x10, 0xF0, 0x80, 0xF0, 0xF0, 0x10, 0xF0, 0x10, 0xF0] ++
    [0x90, 0x90, 0xF0, 0x10, 0x10, 0xF0, 0x80, 0xF0, 0x10, 0xF0, 0xF0, 0x80, 0xF0, 0x90, 0xF0, 0xF0, 0x10, 0x20, 0x40, 0x40] ++
    [0xF0, 0x90, 0xF0, 0x90, 0xF0, 0xF0, 0x90, 0xF0, 0x10, 0xF0, 0xF0, 0x90, 0xF0, 0x90, 0x90, 0xE0, 0x90, 0xE0, 0x90, 0xE0] ++
    [0xF0, 0x80, 0x80, 0x80, 0xF0, 0xE0, 0x90, 0x90, 0x90, 0xE0, 0xF0, 0x80, 0xF0, 0x80, 0xF0, 0xF0, 0x80, 0xF0, 0x80, 0x80] ∧
  (∀ a, 80 ≤ a → a < 4096 → State.reset.memRead a = 0x00#8) ∧
  State.reset.quirks = ⟨true, false, false, false⟩ ∧ State.reset.params = ⟨0, none⟩ ∧
  State.reset.runState = .running ∧ State.reset.fault = none ∧ State.reset.tone = false ∧
  construct (Build.withRom []) = .next State.reset

/-- 70_reset_and_hazards.md R352-R354: FONT_DATA from FONT_BASE, the ROM from 0x200, 0x00 elsewhere (D9), every other
element at its value of 10_state.md R55. -/
def Obligations.ConstructionPlacesFontAndRom : Prop :=
  ∀ b : Build, b.params.fontBase + 80 ≤ 0x200 → b.rom.length ≤ 3584 →
    ∃ t, construct b = .next t ∧
      (∀ k : Fin 80, t.memRead (b.params.fontBase + k) = b.fontData[k]) ∧
      (∀ k, (h : k < b.rom.length) → t.memRead (0x200 + k) = b.rom[k]) ∧
      (∀ a, a < 4096 → (a < b.params.fontBase ∨ b.params.fontBase + 80 ≤ a) → (a < 0x200 ∨ 0x200 + b.rom.length ≤ a) →
        t.memRead a = 0x00#8) ∧
      t = { State.reset with quirks := b.quirks, params := b.params, mem := t.mem }

/-- 60_exceptions.md R318 and 70_reset_and_hazards.md R352 for a ROM longer than 3584 bytes (decision D13). -/
def Obligations.OversizedRomIsRejectedOrTruncated : Prop :=
  ∀ b : Build, b.params.fontBase + 80 ≤ 0x200 → 3584 < b.rom.length →
    (b.romOversize = .reject → construct b = .fault .romTooLarge) ∧
    (b.romOversize = .truncate → ∃ t, construct b = .next t ∧ construct { b with rom := b.rom.take 3584 } = .next t)

/-! ### Decoding -/

/-- The decoder accepts exactly the words that the list of illegal words of 30_encoding.md R112 leaves (decision D14). -/
def Obligations.DecoderAcceptsExactlyTheLegalWords : Prop :=
  ∀ w : Word, (∃ i, decode w = .op i) ↔ legalWord w = true

/-- 30_encoding.md R111: a decoded word matches its instruction's row, and a word that matches a row is decoded to an
instruction of that row; there are 34 rows, and no two match the same word: they differ in a bit both fix. The rows rest
on decisions D3 and D14. -/
def Obligations.DecoderFollowsTheOpcodeMap : Prop :=
  (∀ w i, decode w = .op i → w &&& i.row.mask = i.row.matchBits) ∧
  (∀ r ∈ opcodeMap, ∀ w, w &&& r.mask = r.matchBits → ∃ i, decode w = .op i ∧ i.row = r) ∧
  opcodeMap.length = 34 ∧
  opcodeMap.Pairwise (fun r q => r.matchBits &&& r.mask &&& q.mask ≠ q.matchBits &&& r.mask &&& q.mask)

/-- Decoding the word of any instruction gives the instruction, with every operand. -/
def Obligations.DecodeInvertsEncode : Prop := ∀ i : Instr, decode (encode i) = .op i

/-- A word that decodes to an instruction is the word of that instruction: no bit is dropped. -/
def Obligations.EncodeInvertsDecode : Prop := ∀ (w : Word) (i : Instr), decode w = .op i → encode i = w

/-- 30_encoding.md R108: families 0xE and 0xF are dispatched on the low byte, X is free, any other low byte is
UnknownOpcode. -/
def Obligations.FamiliesEAndFSelectOnTheLowByte : Prop :=
  (∀ x : Nibble, decode (0xE09E#16 ||| x.setWidth 16 <<< 8) = .op (.skp x) ∧
    decode (0xE0A1#16 ||| x.setWidth 16 <<< 8) = .op (.sknp x) ∧
    decode (0xF007#16 ||| x.setWidth 16 <<< 8) = .op (.ldVxDt x) ∧
    decode (0xF00A#16 ||| x.setWidth 16 <<< 8) = .op (.ldVxK x) ∧
    decode (0xF015#16 ||| x.setWidth 16 <<< 8) = .op (.ldDtVx x) ∧
    decode (0xF018#16 ||| x.setWidth 16 <<< 8) = .op (.ldStVx x) ∧
    decode (0xF01E#16 ||| x.setWidth 16 <<< 8) = .op (.addI x) ∧
    decode (0xF029#16 ||| x.setWidth 16 <<< 8) = .op (.ldF x) ∧
    decode (0xF033#16 ||| x.setWidth 16 <<< 8) = .op (.ldB x) ∧
    decode (0xF055#16 ||| x.setWidth 16 <<< 8) = .op (.storeRegs x) ∧
    decode (0xF065#16 ||| x.setWidth 16 <<< 8) = .op (.loadRegs x)) ∧
  (∀ w : Word, w.toNat / 0x1000 = 0xE → w.toNat % 0x100 ∉ [0x9E, 0xA1] → decode w = .unknownOpcode) ∧
  (∀ w : Word, w.toNat / 0x1000 = 0xF →
    w.toNat % 0x100 ∉ [0x07, 0x0A, 0x15, 0x18, 0x1E, 0x29, 0x33, 0x55, 0x65] → decode w = .unknownOpcode)

/-- Words of 95_test_vectors.md L2-A and of the rules' examples, written out. That 812E is SHL is the spec's decision D3
(30_encoding.md R107); that 0000, 01E0 and 5121 are UnknownOpcode is its decision D14 (R106, R109). -/
def Obligations.SampleWordsDecodeAsTheSpecSays : Prop :=
  decode 0x00E0#16 = .op .cls ∧ decode 0x00EE#16 = .op .ret ∧ decode 0x1228#16 = .op (.jp 0x228#12) ∧
  decode 0x6A42#16 = .op (.ldImm 0xA#4 0x42#8) ∧ decode 0x812E#16 = .op (.shlReg 0x1#4 0x2#4) ∧
  decode 0xA2F0#16 = .op (.ldI 0x2F0#12) ∧ decode 0xD125#16 = .op (.drw 0x1#4 0x2#4 0x5#4) ∧
  decode 0xE49E#16 = .op (.skp 0x4#4) ∧ decode 0xF533#16 = .op (.ldB 0x5#4) ∧
  decode 0x0000#16 = .unknownOpcode ∧ decode 0x01E0#16 = .unknownOpcode ∧ decode 0x5121#16 = .unknownOpcode ∧
  decode 0x8128#16 = .unknownOpcode ∧ decode 0xF130#16 = .unknownOpcode ∧ decode 0xFFFF#16 = .unknownOpcode

/-! ### Steps -/

/-- 20_memory.md R74, R75 (decisions D5, D6): the two bytes at pc and pc + 1, each address modulo 4096, the first the more
significant; pc advances by 2 modulo 65536; nothing else changes. -/
def Obligations.FetchReadsTwoBytesBigEndian : Prop :=
  ∀ s : State, s.fetch.ir.toNat = (Memory.read s.mem (s.pc.toNat % 4096)).toNat * 256 +
      (Memory.read s.mem ((s.pc.toNat + 1) % 4096)).toNat ∧
    s.fetch.pcFetch = s.pc ∧ s.fetch.pc.toNat = (s.pc.toNat + 2) % 65536 ∧
    s.fetch = { s with pcFetch := s.pc, ir := s.fetch.ir, pc := s.fetch.pc }

/-- A step that services an instruction tick runs the instruction decoded from the two bytes at pc, in the state after the
fetch, and uses up the step's inputs (60_exceptions.md R340, 20_memory.md R74; the inputs are log 3). -/
def Obligations.StepRunsTheDecodedInstruction : Prop :=
  ∀ (s : State) (i : Instr), s.runState = .running → s.input.tick = .instruction →
    decodeBytes (s.memRead s.pc.toNat) (s.memRead (s.pc.toNat + 1)) = .op i →
    step s = endStep (exec i s.fetch) ∧ ∀ t, exec i s.fetch = .next t → step s = .next t.nextInput

/-- 60_exceptions.md R311-R315 (decision D16): an illegal word stops the run, with the record UnknownOpcode, pc_fetch and
the word; only the fetch's own writes happen besides. -/
def Obligations.IllegalWordTakesUnknownOpcode : Prop :=
  ∀ (s : State) (w : Word), s.runState = .running → s.input.tick = .instruction →
    w = wordOfBytes (s.memRead s.pc.toNat) (s.memRead (s.pc.toNat + 1)) → legalWord w = false →
    step s = .next { s with
      pcFetch := s.pc, ir := w, pc := s.pc + 2#16, runState := .stopped
      fault := some ⟨.unknownOpcode, s.pc, w⟩, inputs := s.inputs.tail, now := s.now + 1 }

/-- 10_state.md R48: Running and Stopped are the run states; cancellation and every fatal fault enter Stopped; in Stopped
there is no step; so Stopped is never left. -/
def Obligations.StoppedIsNeverLeft : Prop :=
  (∀ r : RunState, r = .running ∨ r = .stopped) ∧
  (∀ s : State, s.cancel.runState = .stopped) ∧ (∀ (s : State) (c : FaultCause), (s.raise c).runState = .stopped) ∧
  (∀ s : State, s.runState = .stopped → step s = .fault .stopped) ∧
  (∀ s t : State, step s = .next t → s.runState = .running)

/-- 60_exceptions.md R320: the timer step decrements each timer that is not 0 and sets the tone from ST; it touches no
other state. That the tone is set on every timer step is decision D18. -/
def Obligations.TimerTickDecrementsBothTimers : Prop :=
  ∀ s : State, s.runState = .running → s.input.tick = .timer →
    ∃ t, step s = .next t ∧
      t.dt.toNat = (if s.dt.toNat = 0 then 0 else s.dt.toNat - 1) ∧
      t.st.toNat = (if s.st.toNat = 0 then 0 else s.st.toNat - 1) ∧
      (t.tone = true ↔ t.st.toNat ≠ 0) ∧
      t = { s with dt := t.dt, st := t.st, tone := t.tone, inputs := s.inputs.tail, now := s.now + 1 }

/-- 95_test_vectors.md L1-7, from 10_state.md R42 and 60_exceptions.md R320: after n timer ticks in a row a timer has lost
n and stays at 0. The ticks are given as inputs (log 3). -/
def Obligations.TimersSaturateAtZeroOverARun : Prop :=
  ∀ (n : Nat) (s : State), s.runState = .running → n ≤ s.inputs.length →
    (∀ i ∈ s.inputs.take n, i.tick = .timer) →
    ∃ t : State, Host.Core.run core n s = .next t ∧ t.dt.toNat = s.dt.toNat - n ∧ t.st.toNat = s.st.toNat - n

/-- 60_exceptions.md R328: cancellation stops the run between two steps; the record stays empty and the state is frozen as
the last step left it. -/
def Obligations.CancellationStopsTheRun : Prop :=
  ∀ s : State, s.runState = .running → s.input.tick = .cancel →
    ∃ t, step s = .next t ∧ t = { s with runState := .stopped, inputs := s.inputs.tail, now := s.now + 1 } ∧
      (s.fault = none → t.ports.faultCode = 0#3) ∧ step t = .fault .stopped

/-! ### ALU instructions -/

/-- 41_alu.md R181, 6XNN. -/
def Obligations.LoadImmediateSetsTheRegister : Prop :=
  ∀ (x : Nibble) (nn : Byte) (s : State),
    decode (0x6000#16 ||| x.setWidth 16 <<< 8 ||| nn.setWidth 16) = .op (.ldImm x nn) ∧
    ∃ t, exec (.ldImm x nn) s = .next t ∧ t.reg x = nn ∧ OnlyRegisters s t [x]

/-- 41_alu.md R182, 7XNN: the sum modulo 256; V[0xF] is unchanged unless it is the destination. -/
def Obligations.AddImmediateWrapsWithoutFlag : Prop :=
  ∀ (x : Nibble) (nn : Byte) (s : State),
    decode (0x7000#16 ||| x.setWidth 16 <<< 8 ||| nn.setWidth 16) = .op (.addImm x nn) ∧
    ∃ t, exec (.addImm x nn) s = .next t ∧ (t.reg x).toNat = ((s.reg x).toNat + nn.toNat) % 256 ∧
      OnlyRegisters s t [x]

/-- 41_alu.md R183, 8XY0; X = Y changes nothing. -/
def Obligations.AssignCopiesTheRegister : Prop :=
  ∀ (x y : Nibble) (s : State),
    decode (0x8000#16 ||| x.setWidth 16 <<< 8 ||| y.setWidth 16 <<< 4) = .op (.ldReg x y) ∧
    ∃ t, exec (.ldReg x y) s = .next t ∧ t.reg x = s.reg y ∧ OnlyRegisters s t [x] ∧ (x = y → t = s)

/-- 41_alu.md R184-R186, 8XY1, 8XY2, 8XY3; that V[0xF] is unchanged is the spec's decision D4. -/
def Obligations.LogicOperationsLeaveTheFlag : Prop :=
  ∀ (x y : Nibble) (s : State),
    (∃ t, exec (.orReg x y) s = .next t ∧ t.reg x = s.reg x ||| s.reg y ∧ OnlyRegisters s t [x]) ∧
    (∃ t, exec (.andReg x y) s = .next t ∧ t.reg x = s.reg x &&& s.reg y ∧ OnlyRegisters s t [x]) ∧
    (∃ t, exec (.xorReg x y) s = .next t ∧ t.reg x = s.reg x ^^^ s.reg y ∧ OnlyRegisters s t [x])

/-- 41_alu.md R187, 8XY4: V[0xF] is the carry of the 9-bit sum. That the flag register is V[0xF] is decision D1, that the
flag wins when X = 0xF decision D2 (10_state.md R36). -/
def Obligations.AddSetsCarry : Prop :=
  ∀ (x y : Nibble) (s : State), ∃ t, exec (.addReg x y) s = .next t ∧
    t.reg 0xF#4 = (if (s.reg x).toNat + (s.reg y).toNat > 255 then 1#8 else 0#8) ∧
    (x ≠ 0xF#4 → (t.reg x).toNat = ((s.reg x).toNat + (s.reg y).toNat) % 256) ∧
    OnlyRegisters s t [x, 0xF#4]

/-- 41_alu.md R188, R190, 8XY5 and 8XY7: the differences modulo 256; the flag is a ≥ b, and strictly a < b (D24). V[0xF]
and the write order are decisions D1, D2; the code of 8XY7 is D3. -/
def Obligations.SubtractionsSetTheirFlags : Prop :=
  ∀ (x y : Nibble) (s : State),
    (∃ t, exec (.subReg x y) s = .next t ∧
      t.reg 0xF#4 = (if (s.reg x).toNat ≥ (s.reg y).toNat then 1#8 else 0#8) ∧
      (x ≠ 0xF#4 → (t.reg x).toNat = ((s.reg x).toNat + 256 - (s.reg y).toNat) % 256) ∧
      OnlyRegisters s t [x, 0xF#4]) ∧
    (∃ t, exec (.subnReg x y) s = .next t ∧
      t.reg 0xF#4 = (if (s.reg x).toNat < (s.reg y).toNat then 1#8 else 0#8) ∧
      (x ≠ 0xF#4 → (t.reg x).toNat = ((s.reg y).toNat + 256 - (s.reg x).toNat) % 256) ∧
      OnlyRegisters s t [x, 0xF#4])

/-- 41_alu.md R189, R191, 8XY6 and 8XYE: one bit, the source chosen by the quirk, the bit shifted out in V[0xF]
(decisions D1, D2, D3). -/
def Obligations.ShiftsMoveOneBitIntoTheFlag : Prop :=
  ∀ (x y : Nibble) (s : State) (src : Byte),
    src = (if s.quirks.copyRegistersOnShift then s.reg y else s.reg x) →
    (∃ t, exec (.shrReg x y) s = .next t ∧ (t.reg 0xF#4).toNat = src.toNat % 2 ∧
      (x ≠ 0xF#4 → (t.reg x).toNat = src.toNat / 2) ∧ OnlyRegisters s t [x, 0xF#4]) ∧
    (∃ t, exec (.shlReg x y) s = .next t ∧ (t.reg 0xF#4).toNat = src.toNat / 128 ∧
      (x ≠ 0xF#4 → (t.reg x).toNat = src.toNat * 2 % 256) ∧ OnlyRegisters s t [x, 0xF#4])

/-- 41_alu.md R196, CXNN: the random byte is the step's free input (decision D22, log 3); every bit where NN is 0 is 0. -/
def Obligations.RandomIsMaskedByTheImmediate : Prop :=
  ∀ (x : Nibble) (nn : Byte) (s : State), ∃ t, exec (.rnd x nn) s = .next t ∧
    t.reg x = s.input.rand &&& nn ∧ (∀ k, nn.getLsbD k = false → (t.reg x).getLsbD k = false) ∧
    OnlyRegisters s t [x]

/-! ### Control flow -/

/-- 40_control_flow.md R147, R148, 3XNN and 4XNN: pc moves by 2 more (modulo 65536) or stays; nothing else changes. -/
def Obligations.ImmediateSkipsCompareTheRegister : Prop :=
  ∀ (x : Nibble) (nn : Byte) (s : State),
    decode (0x3000#16 ||| x.setWidth 16 <<< 8 ||| nn.setWidth 16) = .op (.seImm x nn) ∧
    decode (0x4000#16 ||| x.setWidth 16 <<< 8 ||| nn.setWidth 16) = .op (.sneImm x nn) ∧
    exec (.seImm x nn) s = .next { s with pc := if s.reg x = nn then s.pc + 2#16 else s.pc } ∧
    exec (.sneImm x nn) s = .next { s with pc := if s.reg x ≠ nn then s.pc + 2#16 else s.pc }

/-- 40_control_flow.md R149, R150, 5XY0 and 9XY0; a word of either family with a low nibble other than 0 is UnknownOpcode
(decision D14). -/
def Obligations.RegisterSkipsCompareTwoRegisters : Prop :=
  (∀ (x y : Nibble) (s : State),
    decode (0x5000#16 ||| x.setWidth 16 <<< 8 ||| y.setWidth 16 <<< 4) = .op (.seReg x y) ∧
    decode (0x9000#16 ||| x.setWidth 16 <<< 8 ||| y.setWidth 16 <<< 4) = .op (.sneReg x y) ∧
    exec (.seReg x y) s = .next { s with pc := if s.reg x = s.reg y then s.pc + 2#16 else s.pc } ∧
    exec (.sneReg x y) s = .next { s with pc := if s.reg x ≠ s.reg y then s.pc + 2#16 else s.pc }) ∧
  (∀ w : Word, (w.toNat / 0x1000 = 0x5 ∨ w.toNat / 0x1000 = 0x9) → w.toNat % 0x10 ≠ 0 → decode w = .unknownOpcode)

/-- 40_control_flow.md R145, R151, 1NNN and BNNN: BNNN adds V[0], or V[NNN[11:8]] under the quirk, to all 12 bits of NNN,
unreduced. The next fetch reads at pc modulo 4096 (20_memory.md R74); that it reduces the second byte's address on its own,
so that pc mod 4096 = 0xFFF reads byte 1 from 0x000, is decision D6. -/
def Obligations.JumpsSetPc : Prop :=
  ∀ (nnn : Imm12) (s : State), decode (0x1000#16 ||| nnn.setWidth 16) = .op (.jp nnn) ∧
    decode (0xB000#16 ||| nnn.setWidth 16) = .op (.jpV0 nnn) ∧
    (∃ t, exec (.jp nnn) s = .next t ∧ t.pc.toNat = nnn.toNat ∧ t = { s with pc := t.pc }) ∧
    (∃ t, exec (.jpV0 nnn) s = .next t ∧
      t.pc.toNat = nnn.toNat +
        (if s.quirks.variableOffsetRegister then s.reg (BitVec.ofNat 4 (nnn.toNat / 256)) else s.reg 0x0#4).toNat ∧
      t.fetch.ir = wordOfBytes (Memory.read s.mem (t.pc.toNat % 4096)) (Memory.read s.mem ((t.pc.toNat + 1) % 4096)) ∧
      t = { s with pc := t.pc })

/-- 40_control_flow.md R146, 2NNN: the advanced pc is pushed; with a full finite stack (decision D12) StackOverflow is
raised before any change, with pc_fetch and IR in the record (decision D16, log 7). -/
def Obligations.CallPushesTheReturnAddress : Prop :=
  ∀ (nnn : Imm12) (s : State), decode (0x2000#16 ||| nnn.setWidth 16) = .op (.call nnn) ∧
    (s.params.stackDepth ≠ some s.stack.length →
      exec (.call nnn) s = .next { s with pc := nnn.setWidth 16, stack := s.pc :: s.stack }) ∧
    (s.params.stackDepth = some s.stack.length →
      exec (.call nnn) s = .next { s with runState := .stopped, fault := some ⟨.stackOverflow, s.pcFetch, s.ir⟩ })

/-- 40_control_flow.md R144, 00EE: the popped value is used whole; an empty stack raises StackUnderflow and pc keeps its
value. The record's pc_fetch and the frozen state are decision D16 (60_exceptions.md R312, R313); that the record holds IR
is log 7. -/
def Obligations.ReturnPopsThePc : Prop :=
  decode 0x00EE#16 = .op .ret ∧
  ∀ s : State,
    (∀ a rest, s.stack = a :: rest → exec .ret s = .next { s with pc := a, stack := rest }) ∧
    (s.stack = [] →
      exec .ret s = .next { s with runState := .stopped, fault := some ⟨.stackUnderflow, s.pcFetch, s.ir⟩ })

/-- 40_control_flow.md R143: a call at P saves P + 2 on the stack and nothing else; a return over the stack it left
restores pc to P + 2 and the stack, and no register is saved or restored. -/
def Obligations.CallThenReturnComesBack : Prop :=
  ∀ (nnn : Imm12) (p : State), p.params.stackDepth ≠ some p.stack.length →
    ∃ t, exec (.call nnn) p.fetch = .next t ∧ t.stack = (p.pc + 2#16) :: p.stack ∧ (∀ r, t.reg r = p.reg r) ∧
      (∀ a, t.memRead a = p.memRead a) ∧
      ∀ u : State, u.stack = t.stack →
        ∃ w, exec .ret u = .next w ∧ w.pc = p.pc + 2#16 ∧ w.stack = p.stack ∧ ∀ r, w.reg r = u.reg r

/-! ### Index register and memory transfers -/

/-- 42_index_memory.md R221, R223, ANNN and FX29: FX29 gives FONT_BASE plus 5 times the low nibble of V[X]. The
bound on FONT_BASE in its exact clause is decision D10 (70_reset_and_hazards.md R353). -/
def Obligations.IndexLoadsSetI : Prop :=
  (∀ (nnn : Imm12) (s : State), decode (0xA000#16 ||| nnn.setWidth 16) = .op (.ldI nnn) ∧
    ∃ t, exec (.ldI nnn) s = .next t ∧ t.idx.toNat = nnn.toNat ∧ t = { s with idx := t.idx }) ∧
  (∀ (x : Nibble) (s : State), decode (0xF029#16 ||| x.setWidth 16 <<< 8) = .op (.ldF x) ∧
    ∃ t, exec (.ldF x) s = .next t ∧ t.idx = BitVec.ofNat 16 (s.params.fontBase + 5 * ((s.reg x).toNat % 16)) ∧
      (s.params.fontBase + 80 ≤ 0x200 → t.idx.toNat = s.params.fontBase + 5 * ((s.reg x).toNat % 16)) ∧
      t = { s with idx := t.idx })

/-- 42_index_memory.md R222, FX1E: the 16-bit sum (decision D7) and, unless the quirk disables it, V[0xF] = 1 exactly when
the new I exceeds 0x0FFF (decision D1). -/
def Obligations.AddIndexFlagsOverflow : Prop :=
  ∀ (x : Nibble) (s : State), ∃ t, exec (.addI x) s = .next t ∧
    t.idx.toNat = (s.idx.toNat + (s.reg x).toNat) % 65536 ∧
    (s.quirks.disableSetFlagOnIrOverflow = false → t.reg 0xF#4 = if t.idx.toNat > 0x0FFF then 1#8 else 0#8) ∧
    (s.quirks.disableSetFlagOnIrOverflow = true → t.reg 0xF#4 = s.reg 0xF#4) ∧
    (∀ r, r ≠ 0xF#4 → t.reg r = s.reg r) ∧ (∀ a, t.memRead a = s.memRead a) ∧ t = { s with idx := t.idx, v := t.v }

/-- 42_index_memory.md R224, FX33: the three decimal digits at I, I+1, I+2, each address modulo 4096; every other byte
reads as before. -/
def Obligations.BcdStoresThreeDigits : Prop :=
  ∀ (x : Nibble) (s : State), Memory.wf s.mem = true →
    decode (0xF033#16 ||| x.setWidth 16 <<< 8) = .op (.ldB x) ∧
    ∃ t, exec (.ldB x) s = .next t ∧
      (t.memRead (s.effective 0)).toNat = (s.reg x).toNat / 100 ∧
      (t.memRead (s.effective 1)).toNat = (s.reg x).toNat / 10 % 10 ∧
      (t.memRead (s.effective 2)).toNat = (s.reg x).toNat % 10 ∧
      (∀ a, (∀ k < 3, a % 4096 ≠ s.effective k % 4096) → t.memRead a = s.memRead a) ∧
      t = { s with mem := t.mem }

/-- 42_index_memory.md R225, FX55: V[0]..V[X] from I upwards, each address modulo 4096; I advances by X under the quirk
only (decisions D7, D24); every other byte reads as before. -/
def Obligations.StoreRegistersFillsMemory : Prop :=
  ∀ (x : Nibble) (s : State), Memory.wf s.mem = true →
    decode (0xF055#16 ||| x.setWidth 16 <<< 8) = .op (.storeRegs x) ∧
    ∃ t, exec (.storeRegs x) s = .next t ∧
      (∀ r : Nibble, r.toNat ≤ x.toNat → t.memRead (s.effective r.toNat) = s.reg r) ∧
      (∀ a, (∀ k ≤ x.toNat, a % 4096 ≠ s.effective k % 4096) → t.memRead a = s.memRead a) ∧
      t.idx.toNat = (if s.quirks.incrementIndexRegisterOnLoadSave then (s.idx.toNat + x.toNat) % 65536 else s.idx.toNat) ∧
      t = { s with mem := t.mem, idx := t.idx }

/-- 42_index_memory.md R226, FX65: V[0]..V[X] from I upwards, registers above X unchanged, I as FX55; and, with the quirk
off, FX55 then FX65 from the same I restore V[0]..V[X]. The advance by X is decisions D7, D24. -/
def Obligations.LoadRegistersReadsMemoryBack : Prop :=
  (∀ (x : Nibble) (s : State),
    decode (0xF065#16 ||| x.setWidth 16 <<< 8) = .op (.loadRegs x) ∧
    ∃ t, exec (.loadRegs x) s = .next t ∧
      (∀ r : Nibble, r.toNat ≤ x.toNat → t.reg r = s.memRead (s.effective r.toNat)) ∧
      (∀ r : Nibble, x.toNat < r.toNat → t.reg r = s.reg r) ∧
      t.idx.toNat = (if s.quirks.incrementIndexRegisterOnLoadSave then (s.idx.toNat + x.toNat) % 65536 else s.idx.toNat) ∧
      (∀ a, t.memRead a = s.memRead a) ∧ t = { s with v := t.v, idx := t.idx }) ∧
  (∀ (x : Nibble) (s u w : State), Memory.wf s.mem = true → s.quirks.incrementIndexRegisterOnLoadSave = false →
    exec (.storeRegs x) s = .next u → w.mem = u.mem → w.idx = u.idx →
    ∃ t, exec (.loadRegs x) w = .next t ∧ ∀ r : Nibble, r.toNat ≤ x.toNat → t.reg r = s.reg r)

/-- 20_memory.md R85 (decision D25): bytes FX55 stores are what the next fetch reads. -/
def Obligations.StoredBytesAreFetchedNext : Prop :=
  ∀ (x : Nibble) (s t : State), Memory.wf s.mem = true → 1 ≤ x.toNat →
    s.pc.toNat % 4096 = s.idx.toNat % 4096 → exec (.storeRegs x) s = .next t →
    t.fetch.ir = wordOfBytes (s.reg 0x0#4) (s.reg 0x1#4)

/-! ### Display -/

/-- 43_sprite_display.md R251, 00E0: every cell 0, one frame published, nothing else changed. -/
def Obligations.ClearScreenClearsEveryCell : Prop :=
  decode 0x00E0#16 = .op .cls ∧
  ∀ s : State, ∃ t, exec .cls s = .next t ∧ (∀ x < 64, ∀ y < 32, Frame.cell t.fb x y = false) ∧
    t = { s with fb := t.fb, published := t.fb :: s.published }

/-- 43_sprite_display.md R253-R255, R257, R258, DXYN: the pixel loop comes to an XOR of the sprite, clipped at the grid,
from the start (V[X] mod 64, V[Y] mod 32), and V[0xF] = 1 exactly when an on-screen cell went from 1 to 0. That the
operands are read before V[0xF] is written is decision D15. -/
def Obligations.DrawXorsTheClippedSprite : Prop :=
  ∀ (x y n : Nibble) (s : State), ∃ t, exec (.drw x y n) s = .next t ∧
    (∀ px < 64, ∀ py < 32, Frame.cell t.fb px py = (Frame.cell s.fb px py ^^
      s.spriteBit (s.effective 0) ((s.reg x).toNat % 64) ((s.reg y).toNat % 32) n.toNat px py)) ∧
    (t.reg 0xF#4 = 0#8 ∨ t.reg 0xF#4 = 1#8) ∧
    (t.reg 0xF#4 = 1#8 ↔ ∃ px < 64, ∃ py < 32, Frame.cell s.fb px py = true ∧ Frame.cell t.fb px py = false) ∧
    (∀ r, r ≠ 0xF#4 → t.reg r = s.reg r) ∧ (∀ a, t.memRead a = s.memRead a) ∧
    t = { s with v := t.v, fb := t.fb, published := t.fb :: s.published }

/-- 43_sprite_display.md R257: the same sprite drawn twice at the same place restores the buffer, and the second draw
collides if the sprite has a 1 bit on a cell that was clear before. -/
def Obligations.DrawingTwiceRestoresTheBuffer : Prop :=
  ∀ (x y n : Nibble) (s t : State), exec (.drw x y n) s = .next t →
    (t.reg x).toNat % 64 = (s.reg x).toNat % 64 → (t.reg y).toNat % 32 = (s.reg y).toNat % 32 →
    ∃ u, exec (.drw x y n) t = .next u ∧ u.fb = s.fb ∧
      ((∃ px < 64, ∃ py < 32, Frame.cell s.fb px py = false ∧
        s.spriteBit (s.effective 0) ((s.reg x).toNat % 64) ((s.reg y).toNat % 32) n.toNat px py = true) →
        u.reg 0xF#4 = 1#8)

/-- 60_exceptions.md R334 (decision D19): bit 64y + x of the frame port is the cell in column x, row y. -/
def Obligations.FramePortCarriesTheCells : Prop :=
  ∀ (s : State) (x y : Nat), x < 64 → y < 32 → s.ports.frame.getLsbD (64 * y + x) = Frame.cell s.fb x y

/-! ### Keys and timers -/

/-- 44_keys_timers.md R282, R283, EX9E and EXA1, with the filter of R281: a value above 15 is never a pressed key. The
keys are the step's free input (decision D17, log 3). -/
def Obligations.KeySkipsTestTheFilteredKeys : Prop :=
  ∀ (x : Nibble) (s : State),
    exec (.skp x) s = .next { s with
      pc := if (s.reg x).toNat ∈ s.input.keys ∧ (s.reg x).toNat < 16 then s.pc + 2#16 else s.pc } ∧
    exec (.sknp x) s = .next { s with
      pc := if (s.reg x).toNat ∈ s.input.keys ∧ (s.reg x).toNat < 16 then s.pc else s.pc + 2#16 }

/-- 44_keys_timers.md R285, FX0A: without a valid key pc goes back by 2; otherwise V[X] gets a pressed key. Which one is
free (decision D17, log 3). -/
def Obligations.KeyWaitRewindsOrTakesAKey : Prop :=
  ∀ (x : Nibble) (s : State),
    ((∀ k ∈ s.input.keys, ¬ k < 16) → exec (.ldVxK x) s = .next { s with pc := s.pc - 2#16 }) ∧
    ((∃ k ∈ s.input.keys, k < 16) → ∃ t, exec (.ldVxK x) s = .next t ∧
      (t.reg x).toNat ∈ s.input.keys ∧ (t.reg x).toNat < 16 ∧ OnlyRegisters s t [x])

/-- 44_keys_timers.md R284, FX07. -/
def Obligations.ReadDelayTimerCopiesDt : Prop :=
  ∀ (x : Nibble) (s : State), decode (0xF007#16 ||| x.setWidth 16 <<< 8) = .op (.ldVxDt x) ∧
    ∃ t, exec (.ldVxDt x) s = .next t ∧ t.reg x = s.dt ∧ OnlyRegisters s t [x]

/-- 44_keys_timers.md R286, FX15: DT gets V[X]; n timer steps later it is V[X] - n and stays at 0 from V[X] steps on, at
once for V[X] = 0. -/
def Obligations.SetDelayTimerWritesDtOnly : Prop :=
  ∀ (x : Nibble) (s : State), decode (0xF015#16 ||| x.setWidth 16 <<< 8) = .op (.ldDtVx x) ∧
    ∃ t, exec (.ldDtVx x) s = .next t ∧ t = { s with dt := s.reg x } ∧
      ∀ n, (State.timerStep^[n] t).dt.toNat = (s.reg x).toNat - n

/-- 44_keys_timers.md R287, FX18: the tone does not change; the next timer step takes ST = 1 to 0 and gives no tone
(decision D18). -/
def Obligations.SetSoundTimerLeavesTheTone : Prop :=
  ∀ (x : Nibble) (s : State), exec (.ldStVx x) s = .next { s with st := s.reg x } ∧
    (s.reg x = 1#8 → ∀ t, exec (.ldStVx x) s = .next t → t.timerStep.tone = false ∧ t.timerStep.st = 0#8)

/-! ### The whole machine -/

/-- 10_state.md R33: only these instructions write a general register (V[0xF] as the flag register is decision D1, that the
logic operations leave it D4). -/
def Obligations.OnlyTheListedInstructionsWriteRegisters : Prop :=
  ∀ (i : Instr) (s t : State) (r : Nibble), exec i s = .next t → t.reg r ≠ s.reg r →
    (∃ nn, i = .ldImm r nn ∨ i = .addImm r nn ∨ i = .rnd r nn) ∨
    (∃ y, i = .ldReg r y ∨ i = .orReg r y ∨ i = .andReg r y ∨ i = .xorReg r y ∨ i = .addReg r y ∨ i = .subReg r y ∨
      i = .shrReg r y ∨ i = .subnReg r y ∨ i = .shlReg r y) ∨
    i = .ldVxDt r ∨ i = .ldVxK r ∨ (∃ x, i = .loadRegs x ∧ r.toNat ≤ x.toNat) ∨
    (r = 0xF#4 ∧ ((∃ x y, i = .addReg x y ∨ i = .subReg x y ∨ i = .shrReg x y ∨ i = .subnReg x y ∨ i = .shlReg x y) ∨
      (∃ x, i = .addI x ∧ s.quirks.disableSetFlagOnIrOverflow = false) ∨ ∃ x y n, i = .drw x y n))

/-- 10_state.md R40: only ANNN, FX1E, FX29 and, under the quirk, FX55 and FX65 write I. -/
def Obligations.OnlyIndexInstructionsWriteI : Prop :=
  ∀ (i : Instr) (s t : State), exec i s = .next t → t.idx ≠ s.idx →
    (∃ nnn, i = .ldI nnn) ∨ (∃ x, i = .addI x ∨ i = .ldF x) ∨
    (s.quirks.incrementIndexRegisterOnLoadSave = true ∧ ∃ x, i = .storeRegs x ∨ i = .loadRegs x)

/-- 10_state.md R43 and 20_memory.md R73: only 2NNN and 00EE touch the call stack; of the instructions only FX33 and FX55
write memory; neither reaches the other. -/
def Obligations.StackAndMemoryHaveTheirOwnInstructions : Prop :=
  ∀ (i : Instr) (s t : State), exec i s = .next t →
    (t.stack ≠ s.stack → i = .ret ∨ ∃ nnn, i = .call nnn) ∧
    (t.mem ≠ s.mem → ∃ x, i = .ldB x ∨ i = .storeRegs x)

/-- 10_state.md R42, R45, R53 and 60_exceptions.md R331: only 00E0 and DXYN write the display, and they publish it, once,
after it is written; only FX15 writes DT, only FX18 writes ST, no instruction writes the tone. -/
def Obligations.DisplayAndTimersHaveTheirOwnInstructions : Prop :=
  ∀ (i : Instr) (s t : State), exec i s = .next t →
    ((i = .cls ∨ ∃ x y n, i = .drw x y n) → t.published = t.fb :: s.published) ∧
    (¬ (i = .cls ∨ ∃ x y n, i = .drw x y n) → t.fb = s.fb ∧ t.published = s.published) ∧
    (t.dt ≠ s.dt → ∃ x, i = .ldDtVx x) ∧ (t.st ≠ s.st → ∃ x, i = .ldStVx x) ∧ t.tone = s.tone

/-- 10_state.md R42: "No instruction reads `ST`". Two states that differ in ST only give results that differ in ST only. -/
def Obligations.NoInstructionReadsTheSoundTimer : Prop :=
  ∀ (i : Instr) (s t : State) (b : Byte), exec i s = .next t →
    ∃ u, exec i { s with st := b } = .next u ∧ { u with st := t.st } = t

/-- 10_state.md R54: only EX9E, EXA1, FX0A and CXNN use the boundary's inputs. -/
def Obligations.OnlyFourInstructionsUseTheInputs : Prop :=
  ∀ (i : Instr) (s t : State) (l : List Input), (∀ x, i ≠ .skp x ∧ i ≠ .sknp x ∧ i ≠ .ldVxK x) →
    (∀ x nn, i ≠ .rnd x nn) → exec i s = .next t → exec i { s with inputs := l } = .next { t with inputs := l }

/-- 60_exceptions.md R321 and 20_memory.md R82: for an instruction that does not use the timers, `exec` and `State.timerStep`
commute as functions of the state. Where the instruction faults (00EE on an empty stack, 2NNN on a full one) the machine is
Stopped and makes no timer step after it (R311, R324); there the statement speaks of the function only. -/
def Obligations.TimerStepCommutesWithOtherInstructions : Prop :=
  ∀ (i : Instr) (s t : State), (∀ x, i ≠ .ldVxDt x ∧ i ≠ .ldDtVx x ∧ i ≠ .ldStVx x) →
    exec i s = .next t → exec i s.timerStep = .next t.timerStep

/-- 60_exceptions.md R310, R313, R324: only 00EE on an empty stack and 2NNN on a full one fault in execution, each with its
own cause, and such an instruction changes nothing but the record and the run state (decisions D12, D16; log 7). -/
def Obligations.FaultsArePreciseAndSingle : Prop :=
  ∀ (i : Instr) (s t : State), exec i s = .next t → t.runState ≠ s.runState ∨ t.fault ≠ s.fault →
    (i = .ret ∧ s.stack = [] ∧
      t = { s with runState := .stopped, fault := some ⟨.stackUnderflow, s.pcFetch, s.ir⟩ }) ∨
    ((∃ nnn, i = .call nnn) ∧ s.params.stackDepth = some s.stack.length ∧
      t = { s with runState := .stopped, fault := some ⟨.stackOverflow, s.pcFetch, s.ir⟩ })

/-- 60_exceptions.md R327: every instruction may run in every state, and no instruction writes the quirk configuration. -/
def Obligations.EveryInstructionRunsInEveryState : Prop :=
  ∀ (i : Instr) (s : State), ∃ t, exec i s = .next t ∧ t.quirks = s.quirks

/-- 10_state.md R51 and 00_scope.md R8: the quirks and the parameters are fixed for the run. -/
def Obligations.ConfigurationIsFixedForTheRun : Prop :=
  ∀ s t : State, step s = .next t → t.quirks = s.quirks ∧ t.params = s.params

/-- A running machine always makes a step, whatever its trigger; a stopped one makes none (10_state.md R48, 60_exceptions.md
R340, 20_memory.md R72: no access is out of range). -/
def Obligations.OnlyAStoppedMachineMakesNoStep : Prop :=
  ∀ s : State, (s.runState = .running ∧ ∃ t, step s = .next t) ∨ (s.runState = .stopped ∧ step s = .fault .stopped)

/-- The word the host places is the one the next step decodes and runs (log 5). -/
def Obligations.PlacedWordIsTheNextInstruction : Prop :=
  ∀ (s : State) (w : Nat) (i : Instr), Memory.wf s.mem = true → w < 65536 → decodeTableWord 16 w = some i →
    step (s.withFetchWord 16 w) = endStep (exec i (s.withFetchWord 16 w).fetch) ∧
    (s.withFetchWord 16 w).fetch.ir = BitVec.ofNat 16 w

/-- The reset state meets the invariant. -/
def Obligations.ResetMeetsTheInvariant : Prop := State.reset.Inv

/-- Every step keeps the invariant: the canonical memory, the stack bound, no record while Running, precise faults. -/
def Obligations.EveryStepKeepsTheInvariant : Prop :=
  ∀ s t : State, s.Inv → step s = .next t → t.Inv

/-- Every state a run reaches, from any construction (`construct`, log 5), with any inputs and any free values (log 3), meets
the invariant; in particular a fault record appears only in a stopped machine. -/
def Obligations.ReachableStatesMeetTheInvariant : Prop :=
  ∀ s : State, Reachable s → s.Inv ∧ (¬ s.Safe → s.runState = .stopped)
end

