-- ==== Sys2Proof/Laws/Memory.lean ====
section
/-! SUPPORT. The laws of memory: a read after a write, the canonical form is kept, and what a run of consecutive writes
comes to. -/

namespace Sys2Proof.Machine

/-- No entry of the list has an address up to `k`. -/
abbrev Memory.above (m : Memory) (k : Nat) : Prop := ∀ c ∈ m, k < c.1

theorem Memory.wf_cons {k : Nat} {b : Byte} {m : Memory} :
    Memory.wf ((k, b) :: m) = true ↔ k < 4096 ∧ b ≠ Memory.unlisted k ∧ Memory.above m k ∧ Memory.wf m = true := by
  simp [Memory.wf, Memory.above, and_assoc]

/-- An address below every listed one reads as unlisted. -/
theorem Memory.read_of_above {m : Memory} {a : Nat} (h : ∀ c ∈ m, a < c.1) : m.read a = Memory.unlisted a := by
  induction m with
  | nil => rfl
  | cons c m ih =>
    obtain ⟨k, b⟩ := c
    have hk : a < k := h (k, b) (by simp)
    simp only [Memory.read, Nat.ne_of_gt hk, if_false]
    exact ih fun c hc => h c (by simp [hc])

theorem Memory.read_write_same {m : Memory} (h : m.wf = true) (a : Nat) (b : Byte) : (m.write a b).read a = b := by
  induction m with
  | nil =>
    simp only [Memory.write]
    split
    · next hb => simp [Memory.read, hb]
    · simp [Memory.read]
  | cons c m ih =>
    obtain ⟨k, c⟩ := c
    obtain ⟨-, -, hab, hm⟩ := Memory.wf_cons.mp h
    simp only [Memory.write]
    split
    · next hk =>
      have hall : ∀ c' ∈ (k, c) :: m, a < c'.1 := by
        intro c' hc'
        rcases List.mem_cons.mp hc' with rfl | hc'
        · exact hk
        · exact Nat.lt_trans hk (hab c' hc')
      split
      · next hb => rw [Memory.read_of_above hall, hb]
      · simp [Memory.read]
    · split
      · next hk =>
        subst hk
        split
        · next hb => rw [Memory.read_of_above hab, hb]
        · simp [Memory.read]
      · next hk =>
        simp only [Memory.read, Ne.symm hk, if_false]
        exact ih hm

theorem Memory.read_write_other {m : Memory} (h : m.wf = true) {a a' : Nat} (b : Byte) (hne : a' ≠ a) :
    (m.write a b).read a' = m.read a' := by
  induction m with
  | nil =>
    simp only [Memory.write]
    split <;> simp [Memory.read, hne.symm]
  | cons c m ih =>
    obtain ⟨k, c⟩ := c
    obtain ⟨-, -, hab, hm⟩ := Memory.wf_cons.mp h
    simp only [Memory.write]
    split
    · split <;> simp [Memory.read, hne.symm]
    · split
      · next hk =>
        subst hk
        split <;> simp [Memory.read, hne.symm]
      · simp only [Memory.read]
        split
        · rfl
        · exact ih hm

/-- A read after a write, in one equation. -/
theorem Memory.read_write {m : Memory} (h : m.wf = true) (a a' : Nat) (b : Byte) :
    (m.write a b).read a' = if a' = a then b else m.read a' := by
  split
  · next e => rw [e, Memory.read_write_same h]
  · next e => exact Memory.read_write_other h b e

theorem Memory.above_write {m : Memory} {a k : Nat} {b : Byte} (h : m.above k) (ha : k < a) : (m.write a b).above k := by
  induction m with
  | nil =>
    simp only [Memory.write]
    split <;> simp [Memory.above, ha]
  | cons c m ih =>
    obtain ⟨l, c⟩ := c
    have hl : k < l := h (l, c) (by simp)
    have hm : Memory.above m k := fun c hc => h c (by simp [hc])
    have cons : ∀ {x : Byte} {n : Memory}, Memory.above n k → Memory.above ((l, x) :: n) k := by
      intro x n hn c hc
      rcases List.mem_cons.mp hc with rfl | hc
      · exact hl
      · exact hn c hc
    simp only [Memory.write]
    split
    · split
      · exact h
      · intro c' hc'
        rcases List.mem_cons.mp hc' with rfl | hc'
        · exact ha
        · exact h c' hc'
    · split
      · next he =>
        split
        · exact hm
        · subst he; exact cons hm
      · exact cons (ih hm)

/-- Every write keeps the canonical form. -/
theorem Memory.wf_write {m : Memory} (h : m.wf = true) {a : Nat} (ha : a < 4096) (b : Byte) : (m.write a b).wf = true := by
  induction m with
  | nil =>
    simp only [Memory.write]
    split
    · rfl
    · next hb => simp [Memory.wf, ha, hb]
  | cons c m ih =>
    obtain ⟨k, c⟩ := c
    obtain ⟨hk, hc, hab, hm⟩ := Memory.wf_cons.mp h
    simp only [Memory.write]
    split
    · next hlt =>
      split
      · exact h
      · next hb =>
        refine Memory.wf_cons.mpr ⟨ha, hb, ?_, h⟩
        intro c' hc'
        rcases List.mem_cons.mp hc' with rfl | hc'
        · exact hlt
        · exact Nat.lt_trans hlt (hab c' hc')
    · split
      · next he =>
        subst he
        split
        · exact hm
        · next hb => exact Memory.wf_cons.mpr ⟨ha, hb, hab, hm⟩
      · next hn hne => exact Memory.wf_cons.mpr ⟨hk, hc, Memory.above_write hab (by omega), ih hm⟩

/-- Consecutive writes keep the canonical form. -/
theorem Memory.wf_writeList {m : Memory} (h : m.wf = true) (base : Nat) (bs : List Byte) :
    (m.writeList base bs).wf = true := by
  induction bs generalizing m base with
  | nil => exact h
  | cons b bs ih => exact ih (Memory.wf_write h (Nat.mod_lt _ (by omega)) b) (base + 1)

/-- An address that no written byte goes to reads as before. -/
theorem Memory.read_writeList_other {m : Memory} (h : m.wf = true) {base a : Nat} {bs : List Byte}
    (ha : ∀ k < bs.length, (base + k) % 4096 ≠ a) : (m.writeList base bs).read a = m.read a := by
  induction bs generalizing m base with
  | nil => rfl
  | cons b bs ih =>
    have h0 : a ≠ base % 4096 := fun e => ha 0 (by simp) (by simpa using e.symm)
    rw [Memory.writeList, ih (Memory.wf_write h (Nat.mod_lt _ (by omega)) b), Memory.read_write_other h b h0]
    intro k hk
    have := ha (k + 1) (by simpa using hk)
    rwa [show base + 1 + k = base + (k + 1) by omega]

/-- Up to 4096 consecutive writes: the k-th byte is read back at its address. -/
theorem Memory.read_writeList_at {m : Memory} (h : m.wf = true) {base : Nat} {bs : List Byte} (hl : bs.length ≤ 4096)
    (k : Nat) (hk : k < bs.length) : (m.writeList base bs).read ((base + k) % 4096) = bs[k] := by
  induction bs generalizing m base k with
  | nil => simp at hk
  | cons b bs ih =>
    simp only [List.length_cons] at hl hk
    have hw := Memory.wf_write h (a := base % 4096) (Nat.mod_lt _ (by omega)) b
    cases k with
    | zero =>
      rw [Memory.writeList, Memory.read_writeList_other hw, List.getElem_cons_zero]
      · exact Memory.read_write_same h _ b
      · intro j hj; omega
    | succ k =>
      have := ih hw (base := base + 1) (by omega) k (by omega)
      rw [show base + 1 + k = base + (k + 1) by omega] at this
      simpa [Memory.writeList] using this

end Sys2Proof.Machine
end

