-- ==== Sys2Proof/Laws/Construct.lean ====
section
/-! SUPPORT. The zeroed memory that construction starts from (70_reset_and_hazards.md R354 step 1). -/

namespace Sys2Proof.Machine

theorem fontData_length : fontData.length = 80 := rfl

theorem Memory.zeroed_wf : Memory.zeroed.wf = true := Memory.wf_writeList rfl _ _

/-- Beyond the default font an unlisted address reads as 0x00. -/
theorem Memory.unlisted_above {a : Nat} (h : 80 ≤ a) : Memory.unlisted a = 0x00#8 := List.getD_eq_default _ _ h

/-- Every byte of the zeroed memory is 0x00. -/
theorem Memory.read_zeroed {a : Nat} (h : a < 4096) : Memory.zeroed.read a = 0x00#8 := by
  have hl : (List.replicate fontData.length 0x00#8).length = 80 := by rw [List.length_replicate, fontData_length]
  by_cases ha : a < 80
  · have := Memory.read_writeList_at (m := []) rfl (base := 0) (bs := List.replicate fontData.length 0x00#8) (by omega) a
      (by omega)
    rw [List.getElem_replicate, Nat.zero_add, Nat.mod_eq_of_lt h] at this
    exact this
  · rw [Memory.zeroed, Memory.read_writeList_other rfl (fun k hk => by omega)]
    exact Memory.unlisted_above (by omega)

/-- Construction that answers a state: the parameters are well formed, the ROM fits or is cut, and the state is this one. -/
theorem construct_cases {b : Build} {s : State} (h : construct b = .next s) :
    b.params.wellFormed = true ∧ (b.rom.length ≤ romSpace ∨ b.romOversize = .truncate) ∧
      s = { State.reset with
        quirks := b.quirks
        params := b.params
        mem := Memory.writeList (Memory.writeList Memory.zeroed b.params.fontBase b.fontData.toList) 0x200
          (b.rom.take romSpace) } := by
  unfold construct at h
  split at h
  · next hw =>
    split at h
    · cases h
    · next hr =>
      refine ⟨hw, ?_, by injection h with h; exact h.symm⟩
      by_cases hl : b.rom.length ≤ romSpace
      · exact .inl hl
      · cases ho : b.romOversize with
        | reject => exact absurd ⟨by omega, ho⟩ hr
        | truncate => exact .inr rfl
  · cases h

/-- The memory construction leaves is canonical. -/
theorem construct_wf {b : Build} {s : State} (h : construct b = .next s) : Memory.wf s.mem = true := by
  obtain ⟨-, -, rfl⟩ := construct_cases h
  exact Memory.wf_writeList (Memory.wf_writeList Memory.zeroed_wf _ _) _ _

end Sys2Proof.Machine
end

