-- ==== Sys2Proof/Laws/Decode.lean ====
section
/-! SUPPORT. The fields of an encoded word: each format of 30_encoding.md R102 gives its fields back. -/

namespace Sys2Proof

/-- Two words with the same bits are equal. -/
theorem word_ext {w v : Word} (h : ∀ k < 16, w.getLsbD k = v.getLsbD k) : w = v := BitVec.eq_of_getLsbD_eq h

theorem base_bit {base mask : Word} (h : base &&& mask = 0#16) {k : Nat} (hk : mask.getLsbD k = true) :
    base.getLsbD k = false := by
  have := congrArg (fun w => w.getLsbD k) h
  simpa [hk] using this

theorem fieldX_wordXNN {b : Word} (x : Nibble) (nn : Byte) (h : b &&& 0x0FFF#16 = 0#16) : fieldX (wordXNN b x nn) = x := by
  refine BitVec.eq_of_getLsbD_eq fun k hk => ?_
  have := base_bit h (k := 8 + k)
  interval_cases k <;> simp_all [fieldX, wordXNN]

theorem fieldNN_wordXNN {b : Word} (x : Nibble) (nn : Byte) (h : b &&& 0x0FFF#16 = 0#16) :
    fieldNN (wordXNN b x nn) = nn := by
  refine BitVec.eq_of_getLsbD_eq fun k hk => ?_
  have := base_bit h (k := k)
  interval_cases k <;> simp_all [fieldNN, wordXNN]

theorem fieldF_wordXNN (b : Word) (x : Nibble) (nn : Byte) : fieldF (wordXNN b x nn) = fieldF b := by
  refine BitVec.eq_of_getLsbD_eq fun k hk => ?_
  interval_cases k <;> simp [fieldF, wordXNN]

theorem fieldNNN_wordNNN {b : Word} (nnn : Imm12) (h : b &&& 0x0FFF#16 = 0#16) : fieldNNN (wordNNN b nnn) = nnn := by
  refine BitVec.eq_of_getLsbD_eq fun k hk => ?_
  have := base_bit h (k := k)
  interval_cases k <;> simp_all [fieldNNN, wordNNN]

theorem fieldF_wordNNN (b : Word) (nnn : Imm12) : fieldF (wordNNN b nnn) = fieldF b := by
  refine BitVec.eq_of_getLsbD_eq fun k hk => ?_
  interval_cases k <;> simp [fieldF, wordNNN]

theorem fieldX_wordXY {b : Word} (x y : Nibble) (h : b &&& 0x0FF0#16 = 0#16) : fieldX (wordXY b x y) = x := by
  refine BitVec.eq_of_getLsbD_eq fun k hk => ?_
  have := base_bit h (k := 8 + k)
  interval_cases k <;> simp_all [fieldX, wordXY]

theorem fieldY_wordXY {b : Word} (x y : Nibble) (h : b &&& 0x0FF0#16 = 0#16) : fieldY (wordXY b x y) = y := by
  refine BitVec.eq_of_getLsbD_eq fun k hk => ?_
  have := base_bit h (k := 4 + k)
  interval_cases k <;> simp_all [fieldY, wordXY]

theorem fieldF_wordXY (b : Word) (x y : Nibble) : fieldF (wordXY b x y) = fieldF b := by
  refine BitVec.eq_of_getLsbD_eq fun k hk => ?_
  interval_cases k <;> simp [fieldF, wordXY]

theorem fieldN_wordXY (b : Word) (x y : Nibble) : fieldN (wordXY b x y) = fieldN b := by
  refine BitVec.eq_of_getLsbD_eq fun k hk => ?_
  interval_cases k <;> simp [fieldN, wordXY]

theorem fieldX_wordXYN {b : Word} (x y n : Nibble) (h : b &&& 0x0FFF#16 = 0#16) : fieldX (wordXYN b x y n) = x := by
  refine BitVec.eq_of_getLsbD_eq fun k hk => ?_
  have := base_bit h (k := 8 + k)
  interval_cases k <;> simp_all [fieldX, wordXYN]

theorem fieldY_wordXYN {b : Word} (x y n : Nibble) (h : b &&& 0x0FFF#16 = 0#16) : fieldY (wordXYN b x y n) = y := by
  refine BitVec.eq_of_getLsbD_eq fun k hk => ?_
  have := base_bit h (k := 4 + k)
  interval_cases k <;> simp_all [fieldY, wordXYN]

theorem fieldN_wordXYN {b : Word} (x y n : Nibble) (h : b &&& 0x0FFF#16 = 0#16) : fieldN (wordXYN b x y n) = n := by
  refine BitVec.eq_of_getLsbD_eq fun k hk => ?_
  have := base_bit h (k := k)
  interval_cases k <;> simp_all [fieldN, wordXYN]

theorem fieldF_wordXYN (b : Word) (x y n : Nibble) : fieldF (wordXYN b x y n) = fieldF b := by
  refine BitVec.eq_of_getLsbD_eq fun k hk => ?_
  interval_cases k <;> simp [fieldF, wordXYN]

theorem fieldX_wordX {b : Word} (x : Nibble) (h : b &&& 0x0F00#16 = 0#16) : fieldX (wordX b x) = x := by
  refine BitVec.eq_of_getLsbD_eq fun k hk => ?_
  have := base_bit h (k := 8 + k)
  interval_cases k <;> simp_all [fieldX, wordX]

theorem fieldF_wordX (b : Word) (x : Nibble) : fieldF (wordX b x) = fieldF b := by
  refine BitVec.eq_of_getLsbD_eq fun k hk => ?_
  interval_cases k <;> simp [fieldF, wordX]

theorem fieldNN_wordX (b : Word) (x : Nibble) : fieldNN (wordX b x) = fieldNN b := by
  refine BitVec.eq_of_getLsbD_eq fun k hk => ?_
  interval_cases k <;> simp [fieldNN, wordX]

/-! ### The first dispatch level, one lemma per family (30_encoding.md R105) -/

theorem decode_family0 {w : Word} (h : fieldF w = 0x0#4) : decode w = decodeFamily0 w := by simp [decode, h]
theorem decode_family1 {w : Word} (h : fieldF w = 0x1#4) : decode w = .op (.jp (fieldNNN w)) := by simp [decode, h]
theorem decode_family2 {w : Word} (h : fieldF w = 0x2#4) : decode w = .op (.call (fieldNNN w)) := by simp [decode, h]
theorem decode_family3 {w : Word} (h : fieldF w = 0x3#4) : decode w = .op (.seImm (fieldX w) (fieldNN w)) := by simp [decode, h]
theorem decode_family4 {w : Word} (h : fieldF w = 0x4#4) : decode w = .op (.sneImm (fieldX w) (fieldNN w)) := by simp [decode, h]
theorem decode_family5 {w : Word} (h : fieldF w = 0x5#4) : decode w = decodeIfN0 w (.seReg (fieldX w) (fieldY w)) := by simp [decode, h]
theorem decode_family6 {w : Word} (h : fieldF w = 0x6#4) : decode w = .op (.ldImm (fieldX w) (fieldNN w)) := by simp [decode, h]
theorem decode_family7 {w : Word} (h : fieldF w = 0x7#4) : decode w = .op (.addImm (fieldX w) (fieldNN w)) := by simp [decode, h]
theorem decode_family8 {w : Word} (h : fieldF w = 0x8#4) : decode w = decodeFamily8 w := by simp [decode, h]
theorem decode_family9 {w : Word} (h : fieldF w = 0x9#4) : decode w = decodeIfN0 w (.sneReg (fieldX w) (fieldY w)) := by simp [decode, h]
theorem decode_familyA {w : Word} (h : fieldF w = 0xA#4) : decode w = .op (.ldI (fieldNNN w)) := by simp [decode, h]
theorem decode_familyB {w : Word} (h : fieldF w = 0xB#4) : decode w = .op (.jpV0 (fieldNNN w)) := by simp [decode, h]
theorem decode_familyC {w : Word} (h : fieldF w = 0xC#4) : decode w = .op (.rnd (fieldX w) (fieldNN w)) := by simp [decode, h]
theorem decode_familyD {w : Word} (h : fieldF w = 0xD#4) : decode w = .op (.drw (fieldX w) (fieldY w) (fieldN w)) := by simp [decode, h]
theorem decode_familyE {w : Word} (h : fieldF w = 0xE#4) : decode w = decodeFamilyE w := by simp [decode, h]
theorem decode_familyF {w : Word} (h : fieldF w = 0xF#4) : decode w = decodeFamilyF w := by simp [decode, h]

/-! ### Fields as numbers -/

theorem fieldF_eq_iff (w : Word) (f : Nibble) : fieldF w = f ↔ w.toNat / 0x1000 = f.toNat := by
  have := w.isLt
  rw [← BitVec.toNat_inj]
  simp only [fieldF, BitVec.extractLsb'_toNat, Nat.shiftRight_eq_div_pow]
  omega

theorem fieldN_eq_iff (w : Word) (n : Nibble) : fieldN w = n ↔ w.toNat % 0x10 = n.toNat := by
  rw [← BitVec.toNat_inj]
  simp [fieldN, BitVec.extractLsb'_toNat]

theorem fieldNN_eq_iff (w : Word) (nn : Byte) : fieldNN w = nn ↔ w.toNat % 0x100 = nn.toNat := by
  rw [← BitVec.toNat_inj]
  simp [fieldNN, BitVec.extractLsb'_toNat]

/-- A word has one of the 16 families. -/
theorem family_cases (w : Word) : w.toNat / 0x1000 < 16 := by
  have := w.isLt
  omega

/-! ### Bytes and words -/

/-- Byte 0 is the more significant byte (20_memory.md R75). -/
theorem wordOfBytes_toNat (b0 b1 : Byte) : (wordOfBytes b0 b1).toNat = b0.toNat * 256 + b1.toNat := by
  have h : (wordOfBytes b0 b1).toNat = b0.toNat <<< 8 ||| b1.toNat := BitVec.toNat_append ..
  have hb : b1.toNat < 2 ^ 8 := b1.isLt
  rw [h, ← Nat.shiftLeft_add_eq_or_of_lt hb, Nat.shiftLeft_eq]

/-- The two bytes of a word, put together again, are the word (20_memory.md R75). -/
theorem wordOfBytes_bytesOfWord (w : Word) : wordOfBytes (bytesOfWord w).1 (bytesOfWord w).2 = w := by
  apply BitVec.eq_of_toNat_eq
  have hw := w.isLt
  rw [wordOfBytes_toNat]
  simp only [bytesOfWord, BitVec.extractLsb'_toNat, Nat.shiftRight_eq_div_pow]
  omega

/-! ### A word from its fields, and the bits a mask of R111 keeps -/


theorem wordNNN_fields (w : Word) : wordNNN (w &&& 0xF000#16) (fieldNNN w) = w := by
  ext k hk
  simp only [wordNNN, fieldNNN, BitVec.getElem_or, BitVec.getElem_and, BitVec.getElem_setWidth, BitVec.getLsbD_extractLsb']
  interval_cases k <;> simp

theorem wordXNN_fields (w : Word) : wordXNN (w &&& 0xF000#16) (fieldX w) (fieldNN w) = w := by
  ext k hk
  simp only [wordXNN, fieldX, fieldNN, BitVec.getElem_or, BitVec.getElem_and, BitVec.getElem_setWidth, BitVec.getLsbD_extractLsb']
  interval_cases k <;> simp

theorem wordXYN_fields (w : Word) : wordXYN (w &&& 0xF000#16) (fieldX w) (fieldY w) (fieldN w) = w := by
  ext k hk
  simp only [wordXYN, fieldX, fieldY, fieldN, BitVec.getElem_or, BitVec.getElem_and, BitVec.getElem_setWidth, BitVec.getLsbD_extractLsb']
  interval_cases k <;> simp

theorem wordXY_fields (w : Word) : wordXY (w &&& 0xF00F#16) (fieldX w) (fieldY w) = w := by
  ext k hk
  simp only [wordXY, fieldX, fieldY, BitVec.getElem_or, BitVec.getElem_and]
  interval_cases k <;> simp

theorem wordX_fields (w : Word) : wordX (w &&& 0xF0FF#16) (fieldX w) = w := by
  ext k hk
  simp only [wordX, fieldX, BitVec.getElem_or, BitVec.getElem_and]
  interval_cases k <;> simp

theorem and_mask_family (w : Word) : w &&& 0xF000#16 = (fieldF w).setWidth 16 <<< 12 := by
  ext k hk
  simp only [fieldF, BitVec.getElem_and]
  interval_cases k <;> simp

theorem and_mask_family_N (w : Word) : w &&& 0xF00F#16 = (fieldF w).setWidth 16 <<< 12 ||| (fieldN w).setWidth 16 := by
  ext k hk
  simp only [fieldF, fieldN, BitVec.getElem_and]
  interval_cases k <;> simp

theorem and_mask_family_NN (w : Word) : w &&& 0xF0FF#16 = (fieldF w).setWidth 16 <<< 12 ||| (fieldNN w).setWidth 16 := by
  ext k hk
  simp only [fieldF, fieldNN, BitVec.getElem_and]
  interval_cases k <;> simp

end Sys2Proof
end

