-- ==== Sys2Proof/Laws/State.lean ====
section
/-! SUPPORT. What each named update of the state leaves in each field: one lemma per field per update, true by rfl, so that
no later proof unfolds a record update; and what the readers of the state (registers, memory, inputs) see after it. -/

namespace Sys2Proof.Machine

/-! #### setReg -/

@[simp] theorem State.setReg_pc (s : State) (x : Nibble) (b : Byte) : (s.setReg x b).pc = s.pc := rfl
@[simp] theorem State.setReg_pcFetch (s : State) (x : Nibble) (b : Byte) : (s.setReg x b).pcFetch = s.pcFetch := rfl
@[simp] theorem State.setReg_idx (s : State) (x : Nibble) (b : Byte) : (s.setReg x b).idx = s.idx := rfl
@[simp] theorem State.setReg_ir (s : State) (x : Nibble) (b : Byte) : (s.setReg x b).ir = s.ir := rfl
@[simp] theorem State.setReg_dt (s : State) (x : Nibble) (b : Byte) : (s.setReg x b).dt = s.dt := rfl
@[simp] theorem State.setReg_st (s : State) (x : Nibble) (b : Byte) : (s.setReg x b).st = s.st := rfl
@[simp] theorem State.setReg_stack (s : State) (x : Nibble) (b : Byte) : (s.setReg x b).stack = s.stack := rfl
@[simp] theorem State.setReg_mem (s : State) (x : Nibble) (b : Byte) : (s.setReg x b).mem = s.mem := rfl
@[simp] theorem State.setReg_fb (s : State) (x : Nibble) (b : Byte) : (s.setReg x b).fb = s.fb := rfl
@[simp] theorem State.setReg_quirks (s : State) (x : Nibble) (b : Byte) : (s.setReg x b).quirks = s.quirks := rfl
@[simp] theorem State.setReg_params (s : State) (x : Nibble) (b : Byte) : (s.setReg x b).params = s.params := rfl
@[simp] theorem State.setReg_runState (s : State) (x : Nibble) (b : Byte) : (s.setReg x b).runState = s.runState := rfl
@[simp] theorem State.setReg_fault (s : State) (x : Nibble) (b : Byte) : (s.setReg x b).fault = s.fault := rfl
@[simp] theorem State.setReg_tone (s : State) (x : Nibble) (b : Byte) : (s.setReg x b).tone = s.tone := rfl
@[simp] theorem State.setReg_inputs (s : State) (x : Nibble) (b : Byte) : (s.setReg x b).inputs = s.inputs := rfl
@[simp] theorem State.setReg_now (s : State) (x : Nibble) (b : Byte) : (s.setReg x b).now = s.now := rfl
@[simp] theorem State.setReg_published (s : State) (x : Nibble) (b : Byte) : (s.setReg x b).published = s.published := rfl
@[simp] theorem State.setReg_memRead (s : State) (x : Nibble) (b : Byte) (a : Nat) : (s.setReg x b).memRead a = s.memRead a := rfl
@[simp] theorem State.setReg_input (s : State) (x : Nibble) (b : Byte) : (s.setReg x b).input = s.input := rfl

/-! #### setFlag -/

@[simp] theorem State.setFlag_pc (s : State) (f : Bool) : (s.setFlag f).pc = s.pc := rfl
@[simp] theorem State.setFlag_pcFetch (s : State) (f : Bool) : (s.setFlag f).pcFetch = s.pcFetch := rfl
@[simp] theorem State.setFlag_idx (s : State) (f : Bool) : (s.setFlag f).idx = s.idx := rfl
@[simp] theorem State.setFlag_ir (s : State) (f : Bool) : (s.setFlag f).ir = s.ir := rfl
@[simp] theorem State.setFlag_dt (s : State) (f : Bool) : (s.setFlag f).dt = s.dt := rfl
@[simp] theorem State.setFlag_st (s : State) (f : Bool) : (s.setFlag f).st = s.st := rfl
@[simp] theorem State.setFlag_stack (s : State) (f : Bool) : (s.setFlag f).stack = s.stack := rfl
@[simp] theorem State.setFlag_mem (s : State) (f : Bool) : (s.setFlag f).mem = s.mem := rfl
@[simp] theorem State.setFlag_fb (s : State) (f : Bool) : (s.setFlag f).fb = s.fb := rfl
@[simp] theorem State.setFlag_quirks (s : State) (f : Bool) : (s.setFlag f).quirks = s.quirks := rfl
@[simp] theorem State.setFlag_params (s : State) (f : Bool) : (s.setFlag f).params = s.params := rfl
@[simp] theorem State.setFlag_runState (s : State) (f : Bool) : (s.setFlag f).runState = s.runState := rfl
@[simp] theorem State.setFlag_fault (s : State) (f : Bool) : (s.setFlag f).fault = s.fault := rfl
@[simp] theorem State.setFlag_tone (s : State) (f : Bool) : (s.setFlag f).tone = s.tone := rfl
@[simp] theorem State.setFlag_inputs (s : State) (f : Bool) : (s.setFlag f).inputs = s.inputs := rfl
@[simp] theorem State.setFlag_now (s : State) (f : Bool) : (s.setFlag f).now = s.now := rfl
@[simp] theorem State.setFlag_published (s : State) (f : Bool) : (s.setFlag f).published = s.published := rfl
@[simp] theorem State.setFlag_memRead (s : State) (f : Bool) (a : Nat) : (s.setFlag f).memRead a = s.memRead a := rfl
@[simp] theorem State.setFlag_input (s : State) (f : Bool) : (s.setFlag f).input = s.input := rfl

/-! #### setRegFlag -/

@[simp] theorem State.setRegFlag_pc (s : State) (x : Nibble) (b : Byte) (f : Bool) : (s.setRegFlag x b f).pc = s.pc := rfl
@[simp] theorem State.setRegFlag_pcFetch (s : State) (x : Nibble) (b : Byte) (f : Bool) : (s.setRegFlag x b f).pcFetch = s.pcFetch := rfl
@[simp] theorem State.setRegFlag_idx (s : State) (x : Nibble) (b : Byte) (f : Bool) : (s.setRegFlag x b f).idx = s.idx := rfl
@[simp] theorem State.setRegFlag_ir (s : State) (x : Nibble) (b : Byte) (f : Bool) : (s.setRegFlag x b f).ir = s.ir := rfl
@[simp] theorem State.setRegFlag_dt (s : State) (x : Nibble) (b : Byte) (f : Bool) : (s.setRegFlag x b f).dt = s.dt := rfl
@[simp] theorem State.setRegFlag_st (s : State) (x : Nibble) (b : Byte) (f : Bool) : (s.setRegFlag x b f).st = s.st := rfl
@[simp] theorem State.setRegFlag_stack (s : State) (x : Nibble) (b : Byte) (f : Bool) : (s.setRegFlag x b f).stack = s.stack := rfl
@[simp] theorem State.setRegFlag_mem (s : State) (x : Nibble) (b : Byte) (f : Bool) : (s.setRegFlag x b f).mem = s.mem := rfl
@[simp] theorem State.setRegFlag_fb (s : State) (x : Nibble) (b : Byte) (f : Bool) : (s.setRegFlag x b f).fb = s.fb := rfl
@[simp] theorem State.setRegFlag_quirks (s : State) (x : Nibble) (b : Byte) (f : Bool) : (s.setRegFlag x b f).quirks = s.quirks := rfl
@[simp] theorem State.setRegFlag_params (s : State) (x : Nibble) (b : Byte) (f : Bool) : (s.setRegFlag x b f).params = s.params := rfl
@[simp] theorem State.setRegFlag_runState (s : State) (x : Nibble) (b : Byte) (f : Bool) : (s.setRegFlag x b f).runState = s.runState := rfl
@[simp] theorem State.setRegFlag_fault (s : State) (x : Nibble) (b : Byte) (f : Bool) : (s.setRegFlag x b f).fault = s.fault := rfl
@[simp] theorem State.setRegFlag_tone (s : State) (x : Nibble) (b : Byte) (f : Bool) : (s.setRegFlag x b f).tone = s.tone := rfl
@[simp] theorem State.setRegFlag_inputs (s : State) (x : Nibble) (b : Byte) (f : Bool) : (s.setRegFlag x b f).inputs = s.inputs := rfl
@[simp] theorem State.setRegFlag_now (s : State) (x : Nibble) (b : Byte) (f : Bool) : (s.setRegFlag x b f).now = s.now := rfl
@[simp] theorem State.setRegFlag_published (s : State) (x : Nibble) (b : Byte) (f : Bool) : (s.setRegFlag x b f).published = s.published := rfl
@[simp] theorem State.setRegFlag_memRead (s : State) (x : Nibble) (b : Byte) (f : Bool) (a : Nat) : (s.setRegFlag x b f).memRead a = s.memRead a := rfl
@[simp] theorem State.setRegFlag_input (s : State) (x : Nibble) (b : Byte) (f : Bool) : (s.setRegFlag x b f).input = s.input := rfl

/-! #### setIdx -/

@[simp] theorem State.setIdx_v (s : State) (w : Word) : (s.setIdx w).v = s.v := rfl
@[simp] theorem State.setIdx_pc (s : State) (w : Word) : (s.setIdx w).pc = s.pc := rfl
@[simp] theorem State.setIdx_pcFetch (s : State) (w : Word) : (s.setIdx w).pcFetch = s.pcFetch := rfl
@[simp] theorem State.setIdx_idx (s : State) (w : Word) : (s.setIdx w).idx = w := rfl
@[simp] theorem State.setIdx_ir (s : State) (w : Word) : (s.setIdx w).ir = s.ir := rfl
@[simp] theorem State.setIdx_dt (s : State) (w : Word) : (s.setIdx w).dt = s.dt := rfl
@[simp] theorem State.setIdx_st (s : State) (w : Word) : (s.setIdx w).st = s.st := rfl
@[simp] theorem State.setIdx_stack (s : State) (w : Word) : (s.setIdx w).stack = s.stack := rfl
@[simp] theorem State.setIdx_mem (s : State) (w : Word) : (s.setIdx w).mem = s.mem := rfl
@[simp] theorem State.setIdx_fb (s : State) (w : Word) : (s.setIdx w).fb = s.fb := rfl
@[simp] theorem State.setIdx_quirks (s : State) (w : Word) : (s.setIdx w).quirks = s.quirks := rfl
@[simp] theorem State.setIdx_params (s : State) (w : Word) : (s.setIdx w).params = s.params := rfl
@[simp] theorem State.setIdx_runState (s : State) (w : Word) : (s.setIdx w).runState = s.runState := rfl
@[simp] theorem State.setIdx_fault (s : State) (w : Word) : (s.setIdx w).fault = s.fault := rfl
@[simp] theorem State.setIdx_tone (s : State) (w : Word) : (s.setIdx w).tone = s.tone := rfl
@[simp] theorem State.setIdx_inputs (s : State) (w : Word) : (s.setIdx w).inputs = s.inputs := rfl
@[simp] theorem State.setIdx_now (s : State) (w : Word) : (s.setIdx w).now = s.now := rfl
@[simp] theorem State.setIdx_published (s : State) (w : Word) : (s.setIdx w).published = s.published := rfl
@[simp] theorem State.setIdx_reg (s : State) (w : Word) (r : Nibble) : (s.setIdx w).reg r = s.reg r := rfl
@[simp] theorem State.setIdx_memRead (s : State) (w : Word) (a : Nat) : (s.setIdx w).memRead a = s.memRead a := rfl
@[simp] theorem State.setIdx_input (s : State) (w : Word) : (s.setIdx w).input = s.input := rfl

/-! #### setPc -/

@[simp] theorem State.setPc_v (s : State) (w : Word) : (s.setPc w).v = s.v := rfl
@[simp] theorem State.setPc_pc (s : State) (w : Word) : (s.setPc w).pc = w := rfl
@[simp] theorem State.setPc_pcFetch (s : State) (w : Word) : (s.setPc w).pcFetch = s.pcFetch := rfl
@[simp] theorem State.setPc_idx (s : State) (w : Word) : (s.setPc w).idx = s.idx := rfl
@[simp] theorem State.setPc_ir (s : State) (w : Word) : (s.setPc w).ir = s.ir := rfl
@[simp] theorem State.setPc_dt (s : State) (w : Word) : (s.setPc w).dt = s.dt := rfl
@[simp] theorem State.setPc_st (s : State) (w : Word) : (s.setPc w).st = s.st := rfl
@[simp] theorem State.setPc_stack (s : State) (w : Word) : (s.setPc w).stack = s.stack := rfl
@[simp] theorem State.setPc_mem (s : State) (w : Word) : (s.setPc w).mem = s.mem := rfl
@[simp] theorem State.setPc_fb (s : State) (w : Word) : (s.setPc w).fb = s.fb := rfl
@[simp] theorem State.setPc_quirks (s : State) (w : Word) : (s.setPc w).quirks = s.quirks := rfl
@[simp] theorem State.setPc_params (s : State) (w : Word) : (s.setPc w).params = s.params := rfl
@[simp] theorem State.setPc_runState (s : State) (w : Word) : (s.setPc w).runState = s.runState := rfl
@[simp] theorem State.setPc_fault (s : State) (w : Word) : (s.setPc w).fault = s.fault := rfl
@[simp] theorem State.setPc_tone (s : State) (w : Word) : (s.setPc w).tone = s.tone := rfl
@[simp] theorem State.setPc_inputs (s : State) (w : Word) : (s.setPc w).inputs = s.inputs := rfl
@[simp] theorem State.setPc_now (s : State) (w : Word) : (s.setPc w).now = s.now := rfl
@[simp] theorem State.setPc_published (s : State) (w : Word) : (s.setPc w).published = s.published := rfl
@[simp] theorem State.setPc_reg (s : State) (w : Word) (r : Nibble) : (s.setPc w).reg r = s.reg r := rfl
@[simp] theorem State.setPc_memRead (s : State) (w : Word) (a : Nat) : (s.setPc w).memRead a = s.memRead a := rfl
@[simp] theorem State.setPc_input (s : State) (w : Word) : (s.setPc w).input = s.input := rfl

/-! #### setDt -/

@[simp] theorem State.setDt_v (s : State) (b : Byte) : (s.setDt b).v = s.v := rfl
@[simp] theorem State.setDt_pc (s : State) (b : Byte) : (s.setDt b).pc = s.pc := rfl
@[simp] theorem State.setDt_pcFetch (s : State) (b : Byte) : (s.setDt b).pcFetch = s.pcFetch := rfl
@[simp] theorem State.setDt_idx (s : State) (b : Byte) : (s.setDt b).idx = s.idx := rfl
@[simp] theorem State.setDt_ir (s : State) (b : Byte) : (s.setDt b).ir = s.ir := rfl
@[simp] theorem State.setDt_dt (s : State) (b : Byte) : (s.setDt b).dt = b := rfl
@[simp] theorem State.setDt_st (s : State) (b : Byte) : (s.setDt b).st = s.st := rfl
@[simp] theorem State.setDt_stack (s : State) (b : Byte) : (s.setDt b).stack = s.stack := rfl
@[simp] theorem State.setDt_mem (s : State) (b : Byte) : (s.setDt b).mem = s.mem := rfl
@[simp] theorem State.setDt_fb (s : State) (b : Byte) : (s.setDt b).fb = s.fb := rfl
@[simp] theorem State.setDt_quirks (s : State) (b : Byte) : (s.setDt b).quirks = s.quirks := rfl
@[simp] theorem State.setDt_params (s : State) (b : Byte) : (s.setDt b).params = s.params := rfl
@[simp] theorem State.setDt_runState (s : State) (b : Byte) : (s.setDt b).runState = s.runState := rfl
@[simp] theorem State.setDt_fault (s : State) (b : Byte) : (s.setDt b).fault = s.fault := rfl
@[simp] theorem State.setDt_tone (s : State) (b : Byte) : (s.setDt b).tone = s.tone := rfl
@[simp] theorem State.setDt_inputs (s : State) (b : Byte) : (s.setDt b).inputs = s.inputs := rfl
@[simp] theorem State.setDt_now (s : State) (b : Byte) : (s.setDt b).now = s.now := rfl
@[simp] theorem State.setDt_published (s : State) (b : Byte) : (s.setDt b).published = s.published := rfl
@[simp] theorem State.setDt_reg (s : State) (b : Byte) (r : Nibble) : (s.setDt b).reg r = s.reg r := rfl
@[simp] theorem State.setDt_memRead (s : State) (b : Byte) (a : Nat) : (s.setDt b).memRead a = s.memRead a := rfl
@[simp] theorem State.setDt_input (s : State) (b : Byte) : (s.setDt b).input = s.input := rfl

/-! #### setSt -/

@[simp] theorem State.setSt_v (s : State) (b : Byte) : (s.setSt b).v = s.v := rfl
@[simp] theorem State.setSt_pc (s : State) (b : Byte) : (s.setSt b).pc = s.pc := rfl
@[simp] theorem State.setSt_pcFetch (s : State) (b : Byte) : (s.setSt b).pcFetch = s.pcFetch := rfl
@[simp] theorem State.setSt_idx (s : State) (b : Byte) : (s.setSt b).idx = s.idx := rfl
@[simp] theorem State.setSt_ir (s : State) (b : Byte) : (s.setSt b).ir = s.ir := rfl
@[simp] theorem State.setSt_dt (s : State) (b : Byte) : (s.setSt b).dt = s.dt := rfl
@[simp] theorem State.setSt_st (s : State) (b : Byte) : (s.setSt b).st = b := rfl
@[simp] theorem State.setSt_stack (s : State) (b : Byte) : (s.setSt b).stack = s.stack := rfl
@[simp] theorem State.setSt_mem (s : State) (b : Byte) : (s.setSt b).mem = s.mem := rfl
@[simp] theorem State.setSt_fb (s : State) (b : Byte) : (s.setSt b).fb = s.fb := rfl
@[simp] theorem State.setSt_quirks (s : State) (b : Byte) : (s.setSt b).quirks = s.quirks := rfl
@[simp] theorem State.setSt_params (s : State) (b : Byte) : (s.setSt b).params = s.params := rfl
@[simp] theorem State.setSt_runState (s : State) (b : Byte) : (s.setSt b).runState = s.runState := rfl
@[simp] theorem State.setSt_fault (s : State) (b : Byte) : (s.setSt b).fault = s.fault := rfl
@[simp] theorem State.setSt_tone (s : State) (b : Byte) : (s.setSt b).tone = s.tone := rfl
@[simp] theorem State.setSt_inputs (s : State) (b : Byte) : (s.setSt b).inputs = s.inputs := rfl
@[simp] theorem State.setSt_now (s : State) (b : Byte) : (s.setSt b).now = s.now := rfl
@[simp] theorem State.setSt_published (s : State) (b : Byte) : (s.setSt b).published = s.published := rfl
@[simp] theorem State.setSt_reg (s : State) (b : Byte) (r : Nibble) : (s.setSt b).reg r = s.reg r := rfl
@[simp] theorem State.setSt_memRead (s : State) (b : Byte) (a : Nat) : (s.setSt b).memRead a = s.memRead a := rfl
@[simp] theorem State.setSt_input (s : State) (b : Byte) : (s.setSt b).input = s.input := rfl

/-! #### skip -/

@[simp] theorem State.skip_v (s : State) : s.skip.v = s.v := rfl
@[simp] theorem State.skip_pc (s : State) : s.skip.pc = s.pc + 2#16 := rfl
@[simp] theorem State.skip_pcFetch (s : State) : s.skip.pcFetch = s.pcFetch := rfl
@[simp] theorem State.skip_idx (s : State) : s.skip.idx = s.idx := rfl
@[simp] theorem State.skip_ir (s : State) : s.skip.ir = s.ir := rfl
@[simp] theorem State.skip_dt (s : State) : s.skip.dt = s.dt := rfl
@[simp] theorem State.skip_st (s : State) : s.skip.st = s.st := rfl
@[simp] theorem State.skip_stack (s : State) : s.skip.stack = s.stack := rfl
@[simp] theorem State.skip_mem (s : State) : s.skip.mem = s.mem := rfl
@[simp] theorem State.skip_fb (s : State) : s.skip.fb = s.fb := rfl
@[simp] theorem State.skip_quirks (s : State) : s.skip.quirks = s.quirks := rfl
@[simp] theorem State.skip_params (s : State) : s.skip.params = s.params := rfl
@[simp] theorem State.skip_runState (s : State) : s.skip.runState = s.runState := rfl
@[simp] theorem State.skip_fault (s : State) : s.skip.fault = s.fault := rfl
@[simp] theorem State.skip_tone (s : State) : s.skip.tone = s.tone := rfl
@[simp] theorem State.skip_inputs (s : State) : s.skip.inputs = s.inputs := rfl
@[simp] theorem State.skip_now (s : State) : s.skip.now = s.now := rfl
@[simp] theorem State.skip_published (s : State) : s.skip.published = s.published := rfl
@[simp] theorem State.skip_reg (s : State) (r : Nibble) : s.skip.reg r = s.reg r := rfl
@[simp] theorem State.skip_memRead (s : State) (a : Nat) : s.skip.memRead a = s.memRead a := rfl
@[simp] theorem State.skip_input (s : State) : s.skip.input = s.input := rfl

/-! #### memWrite -/

@[simp] theorem State.memWrite_v (s : State) (addr : Nat) (bs : List Byte) : (s.memWrite addr bs).v = s.v := rfl
@[simp] theorem State.memWrite_pc (s : State) (addr : Nat) (bs : List Byte) : (s.memWrite addr bs).pc = s.pc := rfl
@[simp] theorem State.memWrite_pcFetch (s : State) (addr : Nat) (bs : List Byte) : (s.memWrite addr bs).pcFetch = s.pcFetch := rfl
@[simp] theorem State.memWrite_idx (s : State) (addr : Nat) (bs : List Byte) : (s.memWrite addr bs).idx = s.idx := rfl
@[simp] theorem State.memWrite_ir (s : State) (addr : Nat) (bs : List Byte) : (s.memWrite addr bs).ir = s.ir := rfl
@[simp] theorem State.memWrite_dt (s : State) (addr : Nat) (bs : List Byte) : (s.memWrite addr bs).dt = s.dt := rfl
@[simp] theorem State.memWrite_st (s : State) (addr : Nat) (bs : List Byte) : (s.memWrite addr bs).st = s.st := rfl
@[simp] theorem State.memWrite_stack (s : State) (addr : Nat) (bs : List Byte) : (s.memWrite addr bs).stack = s.stack := rfl
@[simp] theorem State.memWrite_mem (s : State) (addr : Nat) (bs : List Byte) : (s.memWrite addr bs).mem = Memory.writeList s.mem addr bs := rfl
@[simp] theorem State.memWrite_fb (s : State) (addr : Nat) (bs : List Byte) : (s.memWrite addr bs).fb = s.fb := rfl
@[simp] theorem State.memWrite_quirks (s : State) (addr : Nat) (bs : List Byte) : (s.memWrite addr bs).quirks = s.quirks := rfl
@[simp] theorem State.memWrite_params (s : State) (addr : Nat) (bs : List Byte) : (s.memWrite addr bs).params = s.params := rfl
@[simp] theorem State.memWrite_runState (s : State) (addr : Nat) (bs : List Byte) : (s.memWrite addr bs).runState = s.runState := rfl
@[simp] theorem State.memWrite_fault (s : State) (addr : Nat) (bs : List Byte) : (s.memWrite addr bs).fault = s.fault := rfl
@[simp] theorem State.memWrite_tone (s : State) (addr : Nat) (bs : List Byte) : (s.memWrite addr bs).tone = s.tone := rfl
@[simp] theorem State.memWrite_inputs (s : State) (addr : Nat) (bs : List Byte) : (s.memWrite addr bs).inputs = s.inputs := rfl
@[simp] theorem State.memWrite_now (s : State) (addr : Nat) (bs : List Byte) : (s.memWrite addr bs).now = s.now := rfl
@[simp] theorem State.memWrite_published (s : State) (addr : Nat) (bs : List Byte) : (s.memWrite addr bs).published = s.published := rfl
@[simp] theorem State.memWrite_reg (s : State) (addr : Nat) (bs : List Byte) (r : Nibble) : (s.memWrite addr bs).reg r = s.reg r := rfl
@[simp] theorem State.memWrite_input (s : State) (addr : Nat) (bs : List Byte) : (s.memWrite addr bs).input = s.input := rfl

/-! #### raise -/

@[simp] theorem State.raise_v (s : State) (c : FaultCause) : (s.raise c).v = s.v := rfl
@[simp] theorem State.raise_pc (s : State) (c : FaultCause) : (s.raise c).pc = s.pc := rfl
@[simp] theorem State.raise_pcFetch (s : State) (c : FaultCause) : (s.raise c).pcFetch = s.pcFetch := rfl
@[simp] theorem State.raise_idx (s : State) (c : FaultCause) : (s.raise c).idx = s.idx := rfl
@[simp] theorem State.raise_ir (s : State) (c : FaultCause) : (s.raise c).ir = s.ir := rfl
@[simp] theorem State.raise_dt (s : State) (c : FaultCause) : (s.raise c).dt = s.dt := rfl
@[simp] theorem State.raise_st (s : State) (c : FaultCause) : (s.raise c).st = s.st := rfl
@[simp] theorem State.raise_stack (s : State) (c : FaultCause) : (s.raise c).stack = s.stack := rfl
@[simp] theorem State.raise_mem (s : State) (c : FaultCause) : (s.raise c).mem = s.mem := rfl
@[simp] theorem State.raise_fb (s : State) (c : FaultCause) : (s.raise c).fb = s.fb := rfl
@[simp] theorem State.raise_quirks (s : State) (c : FaultCause) : (s.raise c).quirks = s.quirks := rfl
@[simp] theorem State.raise_params (s : State) (c : FaultCause) : (s.raise c).params = s.params := rfl
@[simp] theorem State.raise_runState (s : State) (c : FaultCause) : (s.raise c).runState = .stopped := rfl
@[simp] theorem State.raise_fault (s : State) (c : FaultCause) : (s.raise c).fault = some ⟨c, s.pcFetch, s.ir⟩ := rfl
@[simp] theorem State.raise_tone (s : State) (c : FaultCause) : (s.raise c).tone = s.tone := rfl
@[simp] theorem State.raise_inputs (s : State) (c : FaultCause) : (s.raise c).inputs = s.inputs := rfl
@[simp] theorem State.raise_now (s : State) (c : FaultCause) : (s.raise c).now = s.now := rfl
@[simp] theorem State.raise_published (s : State) (c : FaultCause) : (s.raise c).published = s.published := rfl
@[simp] theorem State.raise_reg (s : State) (c : FaultCause) (r : Nibble) : (s.raise c).reg r = s.reg r := rfl
@[simp] theorem State.raise_memRead (s : State) (c : FaultCause) (a : Nat) : (s.raise c).memRead a = s.memRead a := rfl
@[simp] theorem State.raise_input (s : State) (c : FaultCause) : (s.raise c).input = s.input := rfl

/-! #### fetch -/

@[simp] theorem State.fetch_v (s : State) : s.fetch.v = s.v := rfl
@[simp] theorem State.fetch_pc (s : State) : s.fetch.pc = s.pc + 2#16 := rfl
@[simp] theorem State.fetch_pcFetch (s : State) : s.fetch.pcFetch = s.pc := rfl
@[simp] theorem State.fetch_idx (s : State) : s.fetch.idx = s.idx := rfl
@[simp] theorem State.fetch_ir (s : State) : s.fetch.ir = wordOfBytes (s.memRead s.pc.toNat) (s.memRead (s.pc.toNat + 1)) := rfl
@[simp] theorem State.fetch_dt (s : State) : s.fetch.dt = s.dt := rfl
@[simp] theorem State.fetch_st (s : State) : s.fetch.st = s.st := rfl
@[simp] theorem State.fetch_stack (s : State) : s.fetch.stack = s.stack := rfl
@[simp] theorem State.fetch_mem (s : State) : s.fetch.mem = s.mem := rfl
@[simp] theorem State.fetch_fb (s : State) : s.fetch.fb = s.fb := rfl
@[simp] theorem State.fetch_quirks (s : State) : s.fetch.quirks = s.quirks := rfl
@[simp] theorem State.fetch_params (s : State) : s.fetch.params = s.params := rfl
@[simp] theorem State.fetch_runState (s : State) : s.fetch.runState = s.runState := rfl
@[simp] theorem State.fetch_fault (s : State) : s.fetch.fault = s.fault := rfl
@[simp] theorem State.fetch_tone (s : State) : s.fetch.tone = s.tone := rfl
@[simp] theorem State.fetch_inputs (s : State) : s.fetch.inputs = s.inputs := rfl
@[simp] theorem State.fetch_now (s : State) : s.fetch.now = s.now := rfl
@[simp] theorem State.fetch_published (s : State) : s.fetch.published = s.published := rfl
@[simp] theorem State.fetch_reg (s : State) (r : Nibble) : s.fetch.reg r = s.reg r := rfl
@[simp] theorem State.fetch_memRead (s : State) (a : Nat) : s.fetch.memRead a = s.memRead a := rfl
@[simp] theorem State.fetch_input (s : State) : s.fetch.input = s.input := rfl

/-! #### timerStep -/

@[simp] theorem State.timerStep_v (s : State) : s.timerStep.v = s.v := rfl
@[simp] theorem State.timerStep_pc (s : State) : s.timerStep.pc = s.pc := rfl
@[simp] theorem State.timerStep_pcFetch (s : State) : s.timerStep.pcFetch = s.pcFetch := rfl
@[simp] theorem State.timerStep_idx (s : State) : s.timerStep.idx = s.idx := rfl
@[simp] theorem State.timerStep_ir (s : State) : s.timerStep.ir = s.ir := rfl
@[simp] theorem State.timerStep_dt (s : State) : s.timerStep.dt = timerDecrement s.dt := rfl
@[simp] theorem State.timerStep_st (s : State) : s.timerStep.st = timerDecrement s.st := rfl
@[simp] theorem State.timerStep_stack (s : State) : s.timerStep.stack = s.stack := rfl
@[simp] theorem State.timerStep_mem (s : State) : s.timerStep.mem = s.mem := rfl
@[simp] theorem State.timerStep_fb (s : State) : s.timerStep.fb = s.fb := rfl
@[simp] theorem State.timerStep_quirks (s : State) : s.timerStep.quirks = s.quirks := rfl
@[simp] theorem State.timerStep_params (s : State) : s.timerStep.params = s.params := rfl
@[simp] theorem State.timerStep_runState (s : State) : s.timerStep.runState = s.runState := rfl
@[simp] theorem State.timerStep_fault (s : State) : s.timerStep.fault = s.fault := rfl
@[simp] theorem State.timerStep_tone (s : State) : s.timerStep.tone = decide (timerDecrement s.st ≠ 0#8) := rfl
@[simp] theorem State.timerStep_inputs (s : State) : s.timerStep.inputs = s.inputs := rfl
@[simp] theorem State.timerStep_now (s : State) : s.timerStep.now = s.now := rfl
@[simp] theorem State.timerStep_published (s : State) : s.timerStep.published = s.published := rfl
@[simp] theorem State.timerStep_reg (s : State) (r : Nibble) : s.timerStep.reg r = s.reg r := rfl
@[simp] theorem State.timerStep_memRead (s : State) (a : Nat) : s.timerStep.memRead a = s.memRead a := rfl
@[simp] theorem State.timerStep_input (s : State) : s.timerStep.input = s.input := rfl

/-! #### cancel -/

@[simp] theorem State.cancel_v (s : State) : s.cancel.v = s.v := rfl
@[simp] theorem State.cancel_pc (s : State) : s.cancel.pc = s.pc := rfl
@[simp] theorem State.cancel_pcFetch (s : State) : s.cancel.pcFetch = s.pcFetch := rfl
@[simp] theorem State.cancel_idx (s : State) : s.cancel.idx = s.idx := rfl
@[simp] theorem State.cancel_ir (s : State) : s.cancel.ir = s.ir := rfl
@[simp] theorem State.cancel_dt (s : State) : s.cancel.dt = s.dt := rfl
@[simp] theorem State.cancel_st (s : State) : s.cancel.st = s.st := rfl
@[simp] theorem State.cancel_stack (s : State) : s.cancel.stack = s.stack := rfl
@[simp] theorem State.cancel_mem (s : State) : s.cancel.mem = s.mem := rfl
@[simp] theorem State.cancel_fb (s : State) : s.cancel.fb = s.fb := rfl
@[simp] theorem State.cancel_quirks (s : State) : s.cancel.quirks = s.quirks := rfl
@[simp] theorem State.cancel_params (s : State) : s.cancel.params = s.params := rfl
@[simp] theorem State.cancel_runState (s : State) : s.cancel.runState = .stopped := rfl
@[simp] theorem State.cancel_fault (s : State) : s.cancel.fault = s.fault := rfl
@[simp] theorem State.cancel_tone (s : State) : s.cancel.tone = s.tone := rfl
@[simp] theorem State.cancel_inputs (s : State) : s.cancel.inputs = s.inputs := rfl
@[simp] theorem State.cancel_now (s : State) : s.cancel.now = s.now := rfl
@[simp] theorem State.cancel_published (s : State) : s.cancel.published = s.published := rfl
@[simp] theorem State.cancel_reg (s : State) (r : Nibble) : s.cancel.reg r = s.reg r := rfl
@[simp] theorem State.cancel_memRead (s : State) (a : Nat) : s.cancel.memRead a = s.memRead a := rfl
@[simp] theorem State.cancel_input (s : State) : s.cancel.input = s.input := rfl

/-! #### nextInput -/

@[simp] theorem State.nextInput_v (s : State) : s.nextInput.v = s.v := rfl
@[simp] theorem State.nextInput_pc (s : State) : s.nextInput.pc = s.pc := rfl
@[simp] theorem State.nextInput_pcFetch (s : State) : s.nextInput.pcFetch = s.pcFetch := rfl
@[simp] theorem State.nextInput_idx (s : State) : s.nextInput.idx = s.idx := rfl
@[simp] theorem State.nextInput_ir (s : State) : s.nextInput.ir = s.ir := rfl
@[simp] theorem State.nextInput_dt (s : State) : s.nextInput.dt = s.dt := rfl
@[simp] theorem State.nextInput_st (s : State) : s.nextInput.st = s.st := rfl
@[simp] theorem State.nextInput_stack (s : State) : s.nextInput.stack = s.stack := rfl
@[simp] theorem State.nextInput_mem (s : State) : s.nextInput.mem = s.mem := rfl
@[simp] theorem State.nextInput_fb (s : State) : s.nextInput.fb = s.fb := rfl
@[simp] theorem State.nextInput_quirks (s : State) : s.nextInput.quirks = s.quirks := rfl
@[simp] theorem State.nextInput_params (s : State) : s.nextInput.params = s.params := rfl
@[simp] theorem State.nextInput_runState (s : State) : s.nextInput.runState = s.runState := rfl
@[simp] theorem State.nextInput_fault (s : State) : s.nextInput.fault = s.fault := rfl
@[simp] theorem State.nextInput_tone (s : State) : s.nextInput.tone = s.tone := rfl
@[simp] theorem State.nextInput_inputs (s : State) : s.nextInput.inputs = s.inputs.tail := rfl
@[simp] theorem State.nextInput_now (s : State) : s.nextInput.now = s.now + 1 := rfl
@[simp] theorem State.nextInput_published (s : State) : s.nextInput.published = s.published := rfl
@[simp] theorem State.nextInput_reg (s : State) (r : Nibble) : s.nextInput.reg r = s.reg r := rfl
@[simp] theorem State.nextInput_memRead (s : State) (a : Nat) : s.nextInput.memRead a = s.memRead a := rfl

/-! #### publish -/

@[simp] theorem State.publish_v (s : State) : s.publish.v = s.v := rfl
@[simp] theorem State.publish_pc (s : State) : s.publish.pc = s.pc := rfl
@[simp] theorem State.publish_pcFetch (s : State) : s.publish.pcFetch = s.pcFetch := rfl
@[simp] theorem State.publish_idx (s : State) : s.publish.idx = s.idx := rfl
@[simp] theorem State.publish_ir (s : State) : s.publish.ir = s.ir := rfl
@[simp] theorem State.publish_dt (s : State) : s.publish.dt = s.dt := rfl
@[simp] theorem State.publish_st (s : State) : s.publish.st = s.st := rfl
@[simp] theorem State.publish_stack (s : State) : s.publish.stack = s.stack := rfl
@[simp] theorem State.publish_mem (s : State) : s.publish.mem = s.mem := rfl
@[simp] theorem State.publish_fb (s : State) : s.publish.fb = s.fb := rfl
@[simp] theorem State.publish_quirks (s : State) : s.publish.quirks = s.quirks := rfl
@[simp] theorem State.publish_params (s : State) : s.publish.params = s.params := rfl
@[simp] theorem State.publish_runState (s : State) : s.publish.runState = s.runState := rfl
@[simp] theorem State.publish_fault (s : State) : s.publish.fault = s.fault := rfl
@[simp] theorem State.publish_tone (s : State) : s.publish.tone = s.tone := rfl
@[simp] theorem State.publish_inputs (s : State) : s.publish.inputs = s.inputs := rfl
@[simp] theorem State.publish_now (s : State) : s.publish.now = s.now := rfl
@[simp] theorem State.publish_published (s : State) : s.publish.published = s.fb :: s.published := rfl
@[simp] theorem State.publish_reg (s : State) (r : Nibble) : s.publish.reg r = s.reg r := rfl
@[simp] theorem State.publish_memRead (s : State) (a : Nat) : s.publish.memRead a = s.memRead a := rfl
@[simp] theorem State.publish_input (s : State) : s.publish.input = s.input := rfl

/-! #### skipIf: pc moves by 2 when the condition holds, nothing else -/

@[simp] theorem State.skipIf_v (s : State) (c : Bool) : (s.skipIf c).v = s.v := by cases c <;> rfl
@[simp] theorem State.skipIf_pc (s : State) (c : Bool) : (s.skipIf c).pc = if c then s.pc + 2#16 else s.pc := by cases c <;> rfl
@[simp] theorem State.skipIf_pcFetch (s : State) (c : Bool) : (s.skipIf c).pcFetch = s.pcFetch := by cases c <;> rfl
@[simp] theorem State.skipIf_idx (s : State) (c : Bool) : (s.skipIf c).idx = s.idx := by cases c <;> rfl
@[simp] theorem State.skipIf_ir (s : State) (c : Bool) : (s.skipIf c).ir = s.ir := by cases c <;> rfl
@[simp] theorem State.skipIf_dt (s : State) (c : Bool) : (s.skipIf c).dt = s.dt := by cases c <;> rfl
@[simp] theorem State.skipIf_st (s : State) (c : Bool) : (s.skipIf c).st = s.st := by cases c <;> rfl
@[simp] theorem State.skipIf_stack (s : State) (c : Bool) : (s.skipIf c).stack = s.stack := by cases c <;> rfl
@[simp] theorem State.skipIf_mem (s : State) (c : Bool) : (s.skipIf c).mem = s.mem := by cases c <;> rfl
@[simp] theorem State.skipIf_fb (s : State) (c : Bool) : (s.skipIf c).fb = s.fb := by cases c <;> rfl
@[simp] theorem State.skipIf_quirks (s : State) (c : Bool) : (s.skipIf c).quirks = s.quirks := by cases c <;> rfl
@[simp] theorem State.skipIf_params (s : State) (c : Bool) : (s.skipIf c).params = s.params := by cases c <;> rfl
@[simp] theorem State.skipIf_runState (s : State) (c : Bool) : (s.skipIf c).runState = s.runState := by cases c <;> rfl
@[simp] theorem State.skipIf_fault (s : State) (c : Bool) : (s.skipIf c).fault = s.fault := by cases c <;> rfl
@[simp] theorem State.skipIf_tone (s : State) (c : Bool) : (s.skipIf c).tone = s.tone := by cases c <;> rfl
@[simp] theorem State.skipIf_inputs (s : State) (c : Bool) : (s.skipIf c).inputs = s.inputs := by cases c <;> rfl
@[simp] theorem State.skipIf_now (s : State) (c : Bool) : (s.skipIf c).now = s.now := by cases c <;> rfl
@[simp] theorem State.skipIf_published (s : State) (c : Bool) : (s.skipIf c).published = s.published := by cases c <;> rfl
@[simp] theorem State.skipIf_reg (s : State) (c : Bool) (r : Nibble) : (s.skipIf c).reg r = s.reg r := by cases c <;> rfl
@[simp] theorem State.skipIf_memRead (s : State) (c : Bool) (a : Nat) : (s.skipIf c).memRead a = s.memRead a := by cases c <;> rfl
@[simp] theorem State.skipIf_input (s : State) (c : Bool) : (s.skipIf c).input = s.input := by cases c <;> rfl

/-! #### loadFirstRegs: only registers change -/

@[simp] theorem State.loadFirstRegs_pc (s : State) (addr n : Nat) : (s.loadFirstRegs addr n).pc = s.pc := by
  induction n with
  | zero => rfl
  | succ n ih => exact ih
@[simp] theorem State.loadFirstRegs_pcFetch (s : State) (addr n : Nat) : (s.loadFirstRegs addr n).pcFetch = s.pcFetch := by
  induction n with
  | zero => rfl
  | succ n ih => exact ih
@[simp] theorem State.loadFirstRegs_idx (s : State) (addr n : Nat) : (s.loadFirstRegs addr n).idx = s.idx := by
  induction n with
  | zero => rfl
  | succ n ih => exact ih
@[simp] theorem State.loadFirstRegs_ir (s : State) (addr n : Nat) : (s.loadFirstRegs addr n).ir = s.ir := by
  induction n with
  | zero => rfl
  | succ n ih => exact ih
@[simp] theorem State.loadFirstRegs_dt (s : State) (addr n : Nat) : (s.loadFirstRegs addr n).dt = s.dt := by
  induction n with
  | zero => rfl
  | succ n ih => exact ih
@[simp] theorem State.loadFirstRegs_st (s : State) (addr n : Nat) : (s.loadFirstRegs addr n).st = s.st := by
  induction n with
  | zero => rfl
  | succ n ih => exact ih
@[simp] theorem State.loadFirstRegs_stack (s : State) (addr n : Nat) : (s.loadFirstRegs addr n).stack = s.stack := by
  induction n with
  | zero => rfl
  | succ n ih => exact ih
@[simp] theorem State.loadFirstRegs_mem (s : State) (addr n : Nat) : (s.loadFirstRegs addr n).mem = s.mem := by
  induction n with
  | zero => rfl
  | succ n ih => exact ih
@[simp] theorem State.loadFirstRegs_fb (s : State) (addr n : Nat) : (s.loadFirstRegs addr n).fb = s.fb := by
  induction n with
  | zero => rfl
  | succ n ih => exact ih
@[simp] theorem State.loadFirstRegs_quirks (s : State) (addr n : Nat) : (s.loadFirstRegs addr n).quirks = s.quirks := by
  induction n with
  | zero => rfl
  | succ n ih => exact ih
@[simp] theorem State.loadFirstRegs_params (s : State) (addr n : Nat) : (s.loadFirstRegs addr n).params = s.params := by
  induction n with
  | zero => rfl
  | succ n ih => exact ih
@[simp] theorem State.loadFirstRegs_runState (s : State) (addr n : Nat) : (s.loadFirstRegs addr n).runState = s.runState := by
  induction n with
  | zero => rfl
  | succ n ih => exact ih
@[simp] theorem State.loadFirstRegs_fault (s : State) (addr n : Nat) : (s.loadFirstRegs addr n).fault = s.fault := by
  induction n with
  | zero => rfl
  | succ n ih => exact ih
@[simp] theorem State.loadFirstRegs_tone (s : State) (addr n : Nat) : (s.loadFirstRegs addr n).tone = s.tone := by
  induction n with
  | zero => rfl
  | succ n ih => exact ih
@[simp] theorem State.loadFirstRegs_inputs (s : State) (addr n : Nat) : (s.loadFirstRegs addr n).inputs = s.inputs := by
  induction n with
  | zero => rfl
  | succ n ih => exact ih
@[simp] theorem State.loadFirstRegs_now (s : State) (addr n : Nat) : (s.loadFirstRegs addr n).now = s.now := by
  induction n with
  | zero => rfl
  | succ n ih => exact ih
@[simp] theorem State.loadFirstRegs_published (s : State) (addr n : Nat) : (s.loadFirstRegs addr n).published = s.published := by
  induction n with
  | zero => rfl
  | succ n ih => exact ih

end Sys2Proof.Machine
end

