-- ==== Sys2Proof/Laws/Ops.lean ====
section
/-! SUPPORT. One lemma per shared operation that says what it can do; proofs cite these instead of unfolding. -/

namespace Sys2Proof.Machine

/-! ### Registers -/

/-- A register after a write. -/
theorem State.setReg_reg (s : State) (x r : Nibble) (b : Byte) : (s.setReg x b).reg r = if r = x then b else s.reg r := by
  simp only [State.reg, State.setReg, Vector.getElem_set, BitVec.toNat_inj, eq_comm]

@[simp] theorem State.setReg_reg_same (s : State) (x : Nibble) (b : Byte) : (s.setReg x b).reg x = b := by
  simp [State.setReg_reg]

theorem State.setReg_reg_other (s : State) {x r : Nibble} (b : Byte) (h : r ≠ x) : (s.setReg x b).reg r = s.reg r := by
  simp [State.setReg_reg, h]

/-- A register after a flag write. -/
theorem State.setFlag_reg (s : State) (r : Nibble) (f : Bool) :
    (s.setFlag f).reg r = if r = flagReg then flagByte f else s.reg r := State.setReg_reg s flagReg r (flagByte f)

/-- A register after a result and a flag write: the flag is written last. -/
theorem State.setRegFlag_reg (s : State) (x r : Nibble) (b : Byte) (f : Bool) :
    (s.setRegFlag x b f).reg r = if r = flagReg then flagByte f else if r = x then b else s.reg r := by
  simp [State.setRegFlag, State.setFlag_reg, State.setReg_reg]

/-- A register write changes the register file only. -/
theorem State.setReg_eq (s : State) (x : Nibble) (b : Byte) : s.setReg x b = { s with v := (s.setReg x b).v } := rfl

theorem State.setRegFlag_eq (s : State) (x : Nibble) (b : Byte) (f : Bool) :
    s.setRegFlag x b f = { s with v := (s.setRegFlag x b f).v } := rfl

theorem State.setFlag_eq (s : State) (f : Bool) : s.setFlag f = { s with v := (s.setFlag f).v } := rfl

theorem State.skipIf_eq (s : State) (c : Bool) : s.skipIf c = { s with pc := if c then s.pc + 2#16 else s.pc } := by
  cases c <;> rfl

/-- Registers after FX65's loads: the first `n` hold the bytes from `addr` upwards, the others are unchanged. -/
theorem State.loadFirstRegs_reg (s : State) (addr : Nat) {n : Nat} (hn : n ≤ 16) (r : Nibble) :
    (s.loadFirstRegs addr n).reg r = if r.toNat < n then s.memRead (addr + r.toNat) else s.reg r := by
  induction n with
  | zero => simp [State.loadFirstRegs]
  | succ n ih =>
    have hr : (r = BitVec.ofNat 4 n) ↔ r.toNat = n := by
      rw [← BitVec.toNat_inj, BitVec.toNat_ofNat, Nat.mod_eq_of_lt (by omega)]
    rw [State.loadFirstRegs, State.setReg_reg, ih (by omega)]
    by_cases h : r.toNat = n
    · simp [hr, h]
    · have : (r.toNat < n + 1) ↔ r.toNat < n := by omega
      simp [hr, h, this]

theorem State.loadFirstRegs_eq (s : State) (addr n : Nat) :
    s.loadFirstRegs addr n = { s with v := (s.loadFirstRegs addr n).v } := by
  induction n with
  | zero => rfl
  | succ n ih =>
    rw [State.loadFirstRegs]
    conv_lhs => rw [ih]
    rfl

@[simp] theorem State.firstRegs_length (s : State) (n : Nat) : (s.firstRegs n).length = n := by simp [State.firstRegs]

theorem State.firstRegs_getElem (s : State) (n k : Nat) (h : k < (s.firstRegs n).length) :
    (s.firstRegs n)[k] = s.reg (BitVec.ofNat 4 k) := by simp [State.firstRegs]

/-! ### Memory -/

/-- Reading depends on the address modulo 4096 only. -/
theorem State.memRead_mod (s : State) (a : Nat) : s.memRead (a % 4096) = s.memRead a := by simp [State.memRead]

/-- Up to 4096 consecutive bytes stored: the k-th is read back at its address. -/
theorem State.memWrite_read_at {s : State} (h : Memory.wf s.mem = true) (addr : Nat) {bs : List Byte}
    (hl : bs.length ≤ 4096) (k : Nat) (hk : k < bs.length) : (s.memWrite addr bs).memRead (addr + k) = bs[k] :=
  Memory.read_writeList_at h hl k hk

/-- Every other address reads as before. -/
theorem State.memWrite_read_other {s : State} (h : Memory.wf s.mem = true) (addr : Nat) {bs : List Byte} (a : Nat)
    (ha : ∀ k < bs.length, (addr + k) % 4096 ≠ a % 4096) : (s.memWrite addr bs).memRead a = s.memRead a :=
  Memory.read_writeList_other h ha

theorem State.memWrite_wf {s : State} (h : Memory.wf s.mem = true) (addr : Nat) (bs : List Byte) :
    Memory.wf (s.memWrite addr bs).mem = true := Memory.wf_writeList h addr bs

/-! ### Faults and the stack -/

/-- A completed operation answers a next state: its own, or the fault taken in the state before it. -/
theorem State.complete_next (s : State) (r : Except FaultCause State) :
    (∃ t, r = .ok t ∧ s.complete r = .next t) ∨ (∃ c, r = .error c ∧ s.complete r = .next (s.raise c)) := by
  cases r with
  | ok t => exact .inl ⟨t, rfl, rfl⟩
  | error c => exact .inr ⟨c, rfl, rfl⟩

theorem State.push_full {s : State} (v : Word) (h : s.params.stackDepth = some s.stack.length) :
    s.push v = .error .stackOverflow := if_pos h

theorem State.push_room {s : State} (v : Word) (h : s.params.stackDepth ≠ some s.stack.length) :
    s.push v = .ok { s with stack := v :: s.stack } := if_neg h

theorem State.popPc_nil {s : State} (h : s.stack = []) : s.popPc = .error .stackUnderflow := by simp [State.popPc, h]

theorem State.popPc_cons {s : State} {a : Word} {rest : List Word} (h : s.stack = a :: rest) :
    s.popPc = .ok { s with pc := a, stack := rest } := by simp [State.popPc, h]

/-! ### Timers and keys -/

theorem timerDecrement_toNat (b : Byte) : (timerDecrement b).toNat = b.toNat - 1 := by
  unfold timerDecrement
  split
  · next h => simp [h]
  · next h =>
    have hb : b.toNat ≠ 0 := fun e => h (by simpa [← BitVec.toNat_inj] using e)
    have := b.isLt
    rw [BitVec.toNat_sub]
    simp
    omega

theorem State.mem_pressedKeys {s : State} {k : Nat} : k ∈ s.pressedKeys ↔ k ∈ s.input.keys ∧ k < 16 := by
  simp [State.pressedKeys]

end Sys2Proof.Machine
end

