-- ==== Sys2Proof/Laws/Display.lean ====
section
/-! SUPPORT. What the blitter's pixel loop comes to, cell by cell: a cell is flipped exactly where the sprite has a 1 bit on
the grid, and the collision is a flipped cell that was set (43_sprite_display.md R254, R255, R257). -/

namespace Sys2Proof.Machine

@[simp] theorem Frame.cell_clear (x y : Nat) : Frame.cell Frame.clear x y = false := by
  simp [Frame.cell, Frame.clear]

theorem Frame.cell_flip (fb : Frame) {x y : Nat} (hx : x < 64) (hy : y < 32) (px py : Nat) :
    Frame.cell (Frame.flip fb x y) px py = (Frame.cell fb px py ^^ decide (px = x ∧ py = y)) := by
  by_cases hpy : py < 32
  · by_cases h : y = py
    · subst h
      by_cases hpx : x = px
      · subst hpx; simp [Frame.cell, Frame.flip, hy, hx]
      · simp [Frame.cell, Frame.flip, hy, BitVec.getLsbD_twoPow, hpx, Ne.symm hpx]
    · simp [Frame.cell, Frame.flip, hy, hpy, h, Ne.symm h]
  · have h : ¬ py = y := by omega
    simp [Frame.cell, hpy, h]

/-- Two frames with the same cells are the same frame. -/
theorem Frame.ext_cell {f g : Frame} (h : ∀ x < 64, ∀ y < 32, Frame.cell f x y = Frame.cell g x y) : f = g := by
  refine Vector.ext fun y hy => BitVec.eq_of_getLsbD_eq fun x hx => ?_
  simpa [Frame.cell, hy] using h x hx y hy

theorem drawPixel_cell (x y : Nat) (p : Frame × Bool) (px py : Nat) (hpx : px < 64) (hpy : py < 32) :
    Frame.cell (drawPixel x y p).1 px py = (Frame.cell p.1 px py ^^ decide (px = x ∧ py = y)) := by
  unfold drawPixel
  split
  · next h => exact Frame.cell_flip p.1 h.1 h.2 px py
  · next h =>
    have : ¬ (px = x ∧ py = y) := by rintro ⟨rfl, rfl⟩; exact h ⟨hpx, hpy⟩
    simp [this]

theorem drawPixel_hit (x y : Nat) (p : Frame × Bool) :
    (drawPixel x y p).2 = true ↔ p.2 = true ∨ (x < 64 ∧ y < 32 ∧ Frame.cell p.1 x y = true) := by
  unfold drawPixel
  split
  · next h => simp [h]
  · next h => simp; tauto

/-- The first `m` pixels of a sprite row. -/
def rowPrefix (row : Byte) (x0 y m : Nat) (p : Frame × Bool) : Frame × Bool :=
  (List.range m).foldl (fun p c => if row.getLsbD (7 - c) then drawPixel (x0 + c) y p else p) p

theorem rowPrefix_succ (row : Byte) (x0 y m : Nat) (p : Frame × Bool) :
    rowPrefix row x0 y (m + 1) p =
      if row.getLsbD (7 - m) then drawPixel (x0 + m) y (rowPrefix row x0 y m p) else rowPrefix row x0 y m p := by
  simp [rowPrefix, List.range_succ]

/-- Whether the first `m` pixels of the row have a 1 bit on the cell. -/
def rowBit (row : Byte) (x0 y m px py : Nat) : Bool :=
  decide (py = y ∧ x0 ≤ px ∧ px < x0 + m) && row.getLsbD (7 - (px - x0))

theorem rowBit_zero (row : Byte) (x0 y px py : Nat) : rowBit row x0 y 0 px py = false := by
  have h : ¬ (py = y ∧ x0 ≤ px ∧ px < x0 + 0) := by omega
  simp only [rowBit, decide_eq_false h, Bool.false_and]

theorem rowPrefix_cell (row : Byte) (x0 y m : Nat) (p : Frame × Bool) (px py : Nat) (hpx : px < 64) (hpy : py < 32) :
    Frame.cell (rowPrefix row x0 y m p).1 px py = (Frame.cell p.1 px py ^^ rowBit row x0 y m px py) := by
  induction m with
  | zero => simp [rowPrefix, rowBit_zero]
  | succ m ih =>
    rw [rowPrefix_succ]
    by_cases he : px = x0 + m ∧ py = y
    · obtain ⟨rfl, rfl⟩ := he
      have h1 : rowBit row x0 py m (x0 + m) py = false := by simp [rowBit]
      have h2 : rowBit row x0 py (m + 1) (x0 + m) py = row.getLsbD (7 - m) := by simp [rowBit]
      cases hb : row.getLsbD (7 - m)
      · simp [ih, h1, h2, hb]
      · simp [drawPixel_cell _ _ _ _ _ hpx hpy, ih, h1, h2, hb]
    · have h : rowBit row x0 y (m + 1) px py = rowBit row x0 y m px py := by
        have : (py = y ∧ x0 ≤ px ∧ px < x0 + (m + 1)) ↔ (py = y ∧ x0 ≤ px ∧ px < x0 + m) := by omega
        simp only [rowBit, this]
      split
      · rw [drawPixel_cell _ _ _ _ _ hpx hpy, ih, h]; simp [he]
      · rw [ih, h]

theorem rowPrefix_hit (row : Byte) (x0 y m : Nat) (p : Frame × Bool) :
    (rowPrefix row x0 y m p).2 = true ↔
      p.2 = true ∨ ∃ px < 64, ∃ py < 32, rowBit row x0 y m px py = true ∧ Frame.cell p.1 px py = true := by
  induction m with
  | zero => simp [rowPrefix, rowBit_zero]
  | succ m ih =>
    have step : ∀ px py, rowBit row x0 y (m + 1) px py = true ↔
        rowBit row x0 y m px py = true ∨ (px = x0 + m ∧ py = y ∧ row.getLsbD (7 - m) = true) := by
      intro px py
      simp only [rowBit, Bool.and_eq_true, decide_eq_true_eq]
      constructor
      · rintro ⟨⟨h1, h2, h3⟩, h4⟩
        by_cases e : px = x0 + m
        · refine .inr ⟨e, h1, ?_⟩
          rw [e, show x0 + m - x0 = m by omega] at h4
          exact h4
        · exact .inl ⟨⟨h1, h2, by omega⟩, h4⟩
      · rintro (⟨⟨h1, h2, h3⟩, h4⟩ | ⟨rfl, h1, h4⟩)
        · exact ⟨⟨h1, h2, by omega⟩, h4⟩
        · refine ⟨⟨h1, by omega, by omega⟩, ?_⟩
          rw [show x0 + m - x0 = m by omega]
          exact h4
    have cellm : x0 + m < 64 → y < 32 →
        Frame.cell (rowPrefix row x0 y m p).1 (x0 + m) y = Frame.cell p.1 (x0 + m) y := by
      intro h1 h2
      rw [rowPrefix_cell _ _ _ _ _ _ _ h1 h2]
      simp [rowBit]
    rw [rowPrefix_succ]
    cases hb : row.getLsbD (7 - m)
    · simp only [Bool.false_eq_true, if_false, ih, step, hb, and_false, or_false]
    · simp only [if_true, drawPixel_hit, ih, step, hb, and_true]
      constructor
      · rintro ((h | ⟨px, hx, py, hy, h⟩) | ⟨h1, h2, h3⟩)
        · exact .inl h
        · exact .inr ⟨px, hx, py, hy, .inl h.1, h.2⟩
        · exact .inr ⟨x0 + m, h1, y, h2, .inr ⟨rfl, rfl⟩, cellm h1 h2 ▸ h3⟩
      · rintro (h | ⟨px, hx, py, hy, h | ⟨rfl, rfl⟩, hc⟩)
        · exact .inl (.inl h)
        · exact .inl (.inr ⟨px, hx, py, hy, h, hc⟩)
        · exact .inr ⟨hx, hy, (cellm hx hy).symm ▸ hc⟩

theorem drawRow_eq (row : Byte) (x0 y : Nat) (p : Frame × Bool) : drawRow row x0 y p = rowPrefix row x0 y 8 p := rfl

theorem State.drawRows_succ (s : State) (addr x0 y0 n : Nat) :
    s.drawRows addr x0 y0 (n + 1) = drawRow (s.memRead (addr + n)) x0 (y0 + n) (s.drawRows addr x0 y0 n) := by
  simp [State.drawRows, List.range_succ]

theorem State.spriteBit_succ (s : State) (addr x0 y0 n px py : Nat) :
    s.spriteBit addr x0 y0 (n + 1) px py =
      (s.spriteBit addr x0 y0 n px py || rowBit (s.memRead (addr + n)) x0 (y0 + n) 8 px py) := by
  by_cases e : py = y0 + n
  · subst e
    simp [State.spriteBit, rowBit]
  · have h : (x0 ≤ px ∧ px < x0 + 8 ∧ y0 ≤ py ∧ py < y0 + (n + 1)) ↔
        (x0 ≤ px ∧ px < x0 + 8 ∧ y0 ≤ py ∧ py < y0 + n) := by omega
    simp [State.spriteBit, rowBit, h, e]

theorem State.spriteBit_zero (s : State) (addr x0 y0 px py : Nat) : s.spriteBit addr x0 y0 0 px py = false := by
  have h : ¬ (x0 ≤ px ∧ px < x0 + 8 ∧ y0 ≤ py ∧ py < y0 + 0) := by omega
  simp only [State.spriteBit, decide_eq_false h, Bool.false_and]

/-- A row not yet drawn carries no sprite bit. -/
theorem State.spriteBit_next_row (s : State) (addr x0 y0 n px : Nat) : s.spriteBit addr x0 y0 n px (y0 + n) = false := by
  simp [State.spriteBit]

/-- The buffer after a draw: a cell is flipped where the sprite has a 1 bit, and nowhere else. -/
theorem State.drawRows_cell (s : State) (addr x0 y0 n px py : Nat) (hpx : px < 64) (hpy : py < 32) :
    Frame.cell (s.drawRows addr x0 y0 n).1 px py = (Frame.cell s.fb px py ^^ s.spriteBit addr x0 y0 n px py) := by
  induction n with
  | zero => simp [State.drawRows, State.spriteBit_zero]
  | succ n ih =>
    rw [State.drawRows_succ, drawRow_eq, rowPrefix_cell _ _ _ _ _ _ _ hpx hpy, ih, State.spriteBit_succ]
    by_cases e : py = y0 + n
    · subst e; simp [State.spriteBit_next_row]
    · simp [rowBit, e]

/-- The collision of a draw: some cell of the grid with a sprite bit was set before the draw. -/
theorem State.drawRows_hit (s : State) (addr x0 y0 n : Nat) :
    (s.drawRows addr x0 y0 n).2 = true ↔
      ∃ px < 64, ∃ py < 32, s.spriteBit addr x0 y0 n px py = true ∧ Frame.cell s.fb px py = true := by
  induction n with
  | zero => simp [State.drawRows, State.spriteBit_zero]
  | succ n ih =>
    have cell : ∀ px < 64, ∀ py < 32, rowBit (s.memRead (addr + n)) x0 (y0 + n) 8 px py = true →
        Frame.cell (s.drawRows addr x0 y0 n).1 px py = Frame.cell s.fb px py := by
      intro px hx py hy hb
      have e : py = y0 + n := by simp [rowBit] at hb; exact hb.1.1
      subst e
      rw [State.drawRows_cell _ _ _ _ _ _ _ hx hy, State.spriteBit_next_row, Bool.xor_false]
    rw [State.drawRows_succ, drawRow_eq, rowPrefix_hit, ih]
    simp only [State.spriteBit_succ, Bool.or_eq_true]
    constructor
    · rintro (⟨px, hx, py, hy, h, hc⟩ | ⟨px, hx, py, hy, h, hc⟩)
      · exact ⟨px, hx, py, hy, .inl h, hc⟩
      · exact ⟨px, hx, py, hy, .inr h, cell px hx py hy h ▸ hc⟩
    · rintro ⟨px, hx, py, hy, h | h, hc⟩
      · exact .inl ⟨px, hx, py, hy, h, hc⟩
      · exact .inr ⟨px, hx, py, hy, h, (cell px hx py hy h).symm ▸ hc⟩

end Sys2Proof.Machine
end

