-- ==== Sys2Proof/Laws/PerInstr.lean ====
section
/-! SUPPORT. Per instruction: its encoded word lies in its own row of the opcode map, `word AND mask = match` (30_encoding.md
R111). -/

namespace Sys2Proof.Laws.RowMatch

/-- The encoded word of `i` is one that the row of `i` selects. -/
def Statement (i : Instr) : Prop := encode i &&& i.row.mask = i.row.matchBits

theorem wordNNN_masked (b : Word) (nnn : Imm12) : wordNNN b nnn &&& 0xF000#16 = b &&& 0xF000#16 := by
  refine word_ext fun k hk => ?_
  interval_cases k <;> simp [wordNNN]

theorem wordXNN_masked (b : Word) (x : Nibble) (nn : Byte) : wordXNN b x nn &&& 0xF000#16 = b &&& 0xF000#16 := by
  refine word_ext fun k hk => ?_
  interval_cases k <;> simp [wordXNN]

theorem wordXYN_masked (b : Word) (x y n : Nibble) : wordXYN b x y n &&& 0xF000#16 = b &&& 0xF000#16 := by
  refine word_ext fun k hk => ?_
  interval_cases k <;> simp [wordXYN]

theorem wordXY_masked (b : Word) (x y : Nibble) : wordXY b x y &&& 0xF00F#16 = b &&& 0xF00F#16 := by
  refine word_ext fun k hk => ?_
  interval_cases k <;> simp [wordXY]

theorem wordX_masked (b : Word) (x : Nibble) : wordX b x &&& 0xF0FF#16 = b &&& 0xF0FF#16 := by
  refine word_ext fun k hk => ?_
  interval_cases k <;> simp [wordX]

theorem cls : Statement .cls := rfl
theorem ret : Statement .ret := rfl
theorem jp (nnn : Imm12) : Statement (.jp nnn) := (wordNNN_masked _ nnn).trans rfl
theorem call (nnn : Imm12) : Statement (.call nnn) := (wordNNN_masked _ nnn).trans rfl
theorem seImm (x : Nibble) (nn : Byte) : Statement (.seImm x nn) := (wordXNN_masked _ x nn).trans rfl
theorem sneImm (x : Nibble) (nn : Byte) : Statement (.sneImm x nn) := (wordXNN_masked _ x nn).trans rfl
theorem seReg (x y : Nibble) : Statement (.seReg x y) := (wordXY_masked _ x y).trans rfl
theorem ldImm (x : Nibble) (nn : Byte) : Statement (.ldImm x nn) := (wordXNN_masked _ x nn).trans rfl
theorem addImm (x : Nibble) (nn : Byte) : Statement (.addImm x nn) := (wordXNN_masked _ x nn).trans rfl
theorem ldReg (x y : Nibble) : Statement (.ldReg x y) := (wordXY_masked _ x y).trans rfl
theorem orReg (x y : Nibble) : Statement (.orReg x y) := (wordXY_masked _ x y).trans rfl
theorem andReg (x y : Nibble) : Statement (.andReg x y) := (wordXY_masked _ x y).trans rfl
theorem xorReg (x y : Nibble) : Statement (.xorReg x y) := (wordXY_masked _ x y).trans rfl
theorem addReg (x y : Nibble) : Statement (.addReg x y) := (wordXY_masked _ x y).trans rfl
theorem subReg (x y : Nibble) : Statement (.subReg x y) := (wordXY_masked _ x y).trans rfl
theorem shrReg (x y : Nibble) : Statement (.shrReg x y) := (wordXY_masked _ x y).trans rfl
theorem subnReg (x y : Nibble) : Statement (.subnReg x y) := (wordXY_masked _ x y).trans rfl
theorem shlReg (x y : Nibble) : Statement (.shlReg x y) := (wordXY_masked _ x y).trans rfl
theorem sneReg (x y : Nibble) : Statement (.sneReg x y) := (wordXY_masked _ x y).trans rfl
theorem ldI (nnn : Imm12) : Statement (.ldI nnn) := (wordNNN_masked _ nnn).trans rfl
theorem jpV0 (nnn : Imm12) : Statement (.jpV0 nnn) := (wordNNN_masked _ nnn).trans rfl
theorem rnd (x : Nibble) (nn : Byte) : Statement (.rnd x nn) := (wordXNN_masked _ x nn).trans rfl
theorem drw (x y n : Nibble) : Statement (.drw x y n) := (wordXYN_masked _ x y n).trans rfl
theorem skp (x : Nibble) : Statement (.skp x) := (wordX_masked _ x).trans rfl
theorem sknp (x : Nibble) : Statement (.sknp x) := (wordX_masked _ x).trans rfl
theorem ldVxDt (x : Nibble) : Statement (.ldVxDt x) := (wordX_masked _ x).trans rfl
theorem ldVxK (x : Nibble) : Statement (.ldVxK x) := (wordX_masked _ x).trans rfl
theorem ldDtVx (x : Nibble) : Statement (.ldDtVx x) := (wordX_masked _ x).trans rfl
theorem ldStVx (x : Nibble) : Statement (.ldStVx x) := (wordX_masked _ x).trans rfl
theorem addI (x : Nibble) : Statement (.addI x) := (wordX_masked _ x).trans rfl
theorem ldF (x : Nibble) : Statement (.ldF x) := (wordX_masked _ x).trans rfl
theorem ldB (x : Nibble) : Statement (.ldB x) := (wordX_masked _ x).trans rfl
theorem storeRegs (x : Nibble) : Statement (.storeRegs x) := (wordX_masked _ x).trans rfl
theorem loadRegs (x : Nibble) : Statement (.loadRegs x) := (wordX_masked _ x).trans rfl

end Sys2Proof.Laws.RowMatch
end

