-- ==== Sys2Proof/Laws/Step.lean ====
section
/-! SUPPORT. What an instruction never changes, and the cases of a step: proofs cite these instead of unfolding `exec` and
`step`. -/

namespace Sys2Proof.Machine

/-- A completed operation that answers `t` leaves in `t` any field that the operation and `raise` both leave. -/
theorem State.complete_inv {s t : State} {r : Except FaultCause State} (h : s.complete r = .next t) :
    r = .ok t ∨ ∃ c, r = .error c ∧ t = s.raise c := by
  rcases s.complete_next r with ⟨u, hu, he⟩ | ⟨c, hc, he⟩
  · rw [h] at he; cases he; exact .inl hu
  · rw [h] at he; cases he; exact .inr ⟨c, hc, rfl⟩

/-- 00EE by cases. -/
theorem execRet_cases {s t : State} (h : execRet s = .next t) :
    (s.stack = [] ∧ t = s.raise .stackUnderflow) ∨
      ∃ a rest, s.stack = a :: rest ∧ t = { s with pc := a, stack := rest } := by
  cases hs : s.stack with
  | nil =>
    rw [execRet, State.popPc_nil hs] at h
    exact .inl ⟨rfl, by cases h; rfl⟩
  | cons a rest =>
    rw [execRet, State.popPc_cons hs] at h
    exact .inr ⟨a, rest, rfl, by cases h; rfl⟩

/-- 2NNN by cases. -/
theorem execCall_cases {nnn : Imm12} {s t : State} (h : execCall nnn s = .next t) :
    (s.params.stackDepth = some s.stack.length ∧ t = s.raise .stackOverflow) ∨
      (s.params.stackDepth ≠ some s.stack.length ∧ t = { s with pc := addressOf nnn, stack := s.pc :: s.stack }) := by
  by_cases hf : s.params.stackDepth = some s.stack.length
  · rw [execCall, State.push_full _ hf] at h
    exact .inl ⟨hf, by cases h; rfl⟩
  · rw [execCall, State.push_room _ hf] at h
    exact .inr ⟨hf, by cases h; rfl⟩

/-- FX0A by cases. -/
theorem execLdVxK_cases {x : Nibble} {s t : State} (h : execLdVxK x s = .next t) :
    (s.pressedKeys = [] ∧ t = s.setPc (s.pc - 2#16)) ∨
      ∃ k ks, s.pressedKeys = k :: ks ∧ t = s.setReg x (BitVec.ofNat 8 k) := by
  cases hk : s.pressedKeys with
  | nil => exact .inl ⟨rfl, by simp only [execLdVxK, hk] at h; cases h; rfl⟩
  | cons k ks => exact .inr ⟨k, ks, rfl, by simp only [execLdVxK, hk] at h; cases h; rfl⟩

/-- FX1E by cases. -/
theorem execAddI_cases {x : Nibble} {s t : State} (h : execAddI x s = .next t) :
    (s.quirks.disableSetFlagOnIrOverflow = true ∧ t = s.setIdx (s.idx + (s.reg x).setWidth 16)) ∨
      (s.quirks.disableSetFlagOnIrOverflow = false ∧
        t = (s.setIdx (s.idx + (s.reg x).setWidth 16)).setFlag (indexOverflowFlag (s.idx + (s.reg x).setWidth 16))) := by
  cases hq : s.quirks.disableSetFlagOnIrOverflow
  · exact .inr ⟨rfl, by simp only [execAddI, hq] at h; cases h; rfl⟩
  · exact .inl ⟨rfl, by simp only [execAddI, hq] at h; cases h; rfl⟩

/-- What no instruction changes: pc_fetch, IR, the tone and the boundary's inputs. -/
theorem exec_keeps {i : Instr} {s t : State} (h : exec i s = .next t) :
    t.pcFetch = s.pcFetch ∧ t.ir = s.ir ∧ t.tone = s.tone ∧ t.inputs = s.inputs ∧ t.now = s.now := by
  cases i with
  | ret => rcases execRet_cases h with ⟨-, rfl⟩ | ⟨a, rest, -, rfl⟩ <;> simp
  | call nnn => rcases execCall_cases h with ⟨-, rfl⟩ | ⟨-, rfl⟩ <;> simp
  | ldVxK x => rcases execLdVxK_cases h with ⟨-, rfl⟩ | ⟨k, ks, -, rfl⟩ <;> simp
  | addI x => rcases execAddI_cases h with ⟨-, rfl⟩ | ⟨-, rfl⟩ <;> simp
  | seImm x nn => obtain rfl : s.skipIf _ = t := by injection h
                  simp
  | sneImm x nn => obtain rfl : s.skipIf _ = t := by injection h
                   simp
  | seReg x y => obtain rfl : s.skipIf _ = t := by injection h
                 simp
  | sneReg x y => obtain rfl : s.skipIf _ = t := by injection h
                  simp
  | skp x => obtain rfl : s.skipIf _ = t := by injection h
             simp
  | sknp x => obtain rfl : s.skipIf _ = t := by injection h
              simp
  | loadRegs x => obtain rfl : (s.loadFirstRegs _ _).setIdx _ = t := by injection h
                  simp
  | _ => cases h; exact ⟨rfl, rfl, rfl, rfl, rfl⟩

/-- The cases of a step that answers a next state. -/
theorem step_cases {s t : State} (h : step s = .next t) : s.runState = .running ∧
    ((s.input.tick = .instruction ∧ ∃ i u, decode s.fetch.ir = .op i ∧ exec i s.fetch = .next u ∧ t = u.nextInput) ∨
      (s.input.tick = .instruction ∧ decode s.fetch.ir = .unknownOpcode ∧
        t = (s.fetch.raise .unknownOpcode).nextInput) ∨
      (s.input.tick = .timer ∧ t = s.timerStep.nextInput) ∨
      (s.input.tick = .cancel ∧ t = s.cancel.nextInput)) := by
  unfold step at h
  split at h
  · cases h
  · next hr =>
    refine ⟨hr, ?_⟩
    split at h
    · next ht =>
      unfold instructionStep at h
      split at h
      · next i hd =>
        cases hx : exec i s.fetch with
        | next u => rw [hx] at h; exact .inl ⟨ht, i, u, hd, hx, by cases h; rfl⟩
        | fault r => rw [hx] at h; cases h
        | refused r => rw [hx] at h; cases h
      · next hd => exact .inr (.inl ⟨ht, hd, by cases h; rfl⟩)
    · next ht => exact .inr (.inr (.inl ⟨ht, by cases h; rfl⟩))
    · next ht => exact .inr (.inr (.inr ⟨ht, by cases h; rfl⟩))

/-! ### withFetchWord -/

@[simp] theorem State.withFetchWord_pc (s : State) (nbits w : Nat) : (s.withFetchWord nbits w).pc = s.pc := rfl
@[simp] theorem State.withFetchWord_runState (s : State) (nbits w : Nat) : (s.withFetchWord nbits w).runState = .running := rfl
@[simp] theorem State.withFetchWord_tick (s : State) (nbits w : Nat) :
    (s.withFetchWord nbits w).input.tick = .instruction := rfl

/-- The word's two bytes stand at pc and pc + 1, the more significant first. -/
theorem State.withFetchWord_bytes {s : State} (h : Memory.wf s.mem = true) {w : Nat} (hw : w < 65536) :
    (s.withFetchWord 16 w).memRead s.pc.toNat = (bytesOfWord (BitVec.ofNat 16 w)).1 ∧
      (s.withFetchWord 16 w).memRead (s.pc.toNat + 1) = (bytesOfWord (BitVec.ofNat 16 w)).2 := by
  have e : w % 2 ^ 16 = w := Nat.mod_eq_of_lt (by omega)
  have hm : ∀ a, (s.withFetchWord 16 w).memRead a = (s.memWrite s.pc.toNat
      [(bytesOfWord (BitVec.ofNat 16 w)).1, (bytesOfWord (BitVec.ofNat 16 w)).2]).memRead a := by
    intro a
    show (s.memWrite s.pc.toNat [(bytesOfWord (BitVec.ofNat 16 (w % 2 ^ 16))).1, _]).memRead a = _
    rw [e]
  rw [hm, hm]
  exact ⟨State.memWrite_read_at h _ (by simp) 0 (by simp), State.memWrite_read_at h _ (by simp) 1 (by simp)⟩

end Sys2Proof.Machine
end

