-- ==== Sys2Proof/Tests/Slice0.lean ====
section
/-! SUPPORT. The model's own tests. Every expected value is from the spec's encodings or from 95_test_vectors.md (the
vector's section is named); each effect test is one step on a small state. The last part gives, for every statement with
hypotheses, a concrete input that meets all of them. -/

namespace Sys2Proof.Tests

open Sys2Proof.Machine

/-! ### Ill-formed input is refused (WellFormed) -/

/-- 30_encoding.md R112: one illegal word of every family that has one. -/
theorem test_illegal_words : [0x0000#16, 0x01E0#16, 0x00E1#16, 0x5121#16, 0x8128#16, 0x812F#16, 0x9121#16, 0xE19F#16,
    0xF130#16, 0xFFFF#16].any legalWord = false := by decide

/-- R112: their neighbours are legal. -/
theorem test_legal_words : [0x00E0#16, 0x00EE#16, 0x5120#16, 0x8127#16, 0x812E#16, 0x9120#16, 0xE19E#16, 0xF133#16,
    0xD120#16].all legalWord = true := by decide

/-- 70_reset_and_hazards.md R353: FONT_BASE + 80 ≤ 0x200, so 432 is the last legal base. -/
theorem test_font_base_limit : (Params.mk 433 none).wellFormed = false ∧ (Params.mk 432 none).wellFormed = true := by decide

/-- A font that does not fit is refused, by name. -/
theorem test_font_out_of_range :
    construct { Build.withRom [] with params := ⟨433, none⟩ } = .refused .fontOutOfRange := rfl

/-! ### Decoding: the words of 30_encoding.md R102 and R111, bit by bit -/

theorem test_decode_family0 : decode 0b0000000011100000#16 = .op .cls ∧ decode 0b0000000011101110#16 = .op .ret := by decide
theorem test_decode_jp : decode 0b0001001000101000#16 = .op (.jp 0x228#12) := by decide
theorem test_decode_call : decode 0b0010001100000000#16 = .op (.call 0x300#12) := by decide
theorem test_decode_seImm : decode 0b0011001100010000#16 = .op (.seImm 0x3#4 0x10#8) := by decide
theorem test_decode_sneImm : decode 0b0100001100010001#16 = .op (.sneImm 0x3#4 0x11#8) := by decide
theorem test_decode_seReg : decode 0b0101000100100000#16 = .op (.seReg 0x1#4 0x2#4) := by decide
theorem test_decode_ldImm : decode 0b0110101001000010#16 = .op (.ldImm 0xA#4 0x42#8) := by decide
theorem test_decode_addImm : decode 0b0111000000000011#16 = .op (.addImm 0x0#4 0x03#8) := by decide
theorem test_decode_family8 :
    decode 0b1000000100100000#16 = .op (.ldReg 0x1#4 0x2#4) ∧ decode 0b1000000100100001#16 = .op (.orReg 0x1#4 0x2#4) ∧
    decode 0b1000000100100010#16 = .op (.andReg 0x1#4 0x2#4) ∧ decode 0b1000000100100011#16 = .op (.xorReg 0x1#4 0x2#4) ∧
    decode 0b1000000100100100#16 = .op (.addReg 0x1#4 0x2#4) ∧ decode 0b1000000100100101#16 = .op (.subReg 0x1#4 0x2#4) ∧
    decode 0b1000000100100110#16 = .op (.shrReg 0x1#4 0x2#4) ∧ decode 0b1000000100100111#16 = .op (.subnReg 0x1#4 0x2#4) ∧
    decode 0b1000000100101110#16 = .op (.shlReg 0x1#4 0x2#4) := by decide
theorem test_decode_sneReg : decode 0b1001000100100000#16 = .op (.sneReg 0x1#4 0x2#4) := by decide
theorem test_decode_ldI : decode 0b1010001011110000#16 = .op (.ldI 0x2F0#12) := by decide
theorem test_decode_jpV0 : decode 0b1011111111111110#16 = .op (.jpV0 0xFFE#12) := by decide
theorem test_decode_rnd : decode 0b1100000100001111#16 = .op (.rnd 0x1#4 0x0F#8) := by decide
theorem test_decode_drw : decode 0b1101000100100101#16 = .op (.drw 0x1#4 0x2#4 0x5#4) := by decide
theorem test_decode_familyE :
    decode 0b1110010010011110#16 = .op (.skp 0x4#4) ∧ decode 0b1110010010100001#16 = .op (.sknp 0x4#4) := by decide
theorem test_decode_familyF :
    decode 0b1111000100000111#16 = .op (.ldVxDt 0x1#4) ∧ decode 0b1111001000001010#16 = .op (.ldVxK 0x2#4) ∧
    decode 0b1111000100010101#16 = .op (.ldDtVx 0x1#4) ∧ decode 0b1111000100011000#16 = .op (.ldStVx 0x1#4) ∧
    decode 0b1111001000011110#16 = .op (.addI 0x2#4) ∧ decode 0b1111001100101001#16 = .op (.ldF 0x3#4) ∧
    decode 0b1111010100110011#16 = .op (.ldB 0x5#4) ∧ decode 0b1111001001010101#16 = .op (.storeRegs 0x2#4) ∧
    decode 0b1111001001100101#16 = .op (.loadRegs 0x2#4) := by decide

/-- 95_test_vectors.md L2-A: the words that are not instructions. -/
theorem test_decode_illegal : [0x0000#16, 0x01E0#16, 0x0123#16, 0x00FF#16, 0x5121#16, 0x9121#16, 0x8128#16, 0x812F#16,
    0xE19F#16, 0xF130#16, 0xF175#16, 0xFFFF#16].all (fun w => decide (decode w = .unknownOpcode)) = true := by decide

/-- The interface to the host: a word of the opcode table is decoded through its two big-endian bytes. -/
theorem test_decode_table_word : decodeTableWord 16 0x6A42 = some (.ldImm 0xA#4 0x42#8) ∧ decodeTableWord 16 0x5121 = none := by
  decide

/-! ### One step -/

/-- The construction state with an instruction tick, no key held and the random byte A7 given for the coming step. -/
def base : State := { State.reset with inputs := [⟨.instruction, [], 0xA7#8⟩] }

/-- `base` with registers set. -/
def regs (l : List (Nibble × Byte)) : State := l.foldl (fun s p => s.setReg p.1 p.2) base

/-- `base` with the keys the driver reports. -/
def keys (l : List Nat) (s : State) : State := { s with inputs := [⟨.instruction, l, 0xA7#8⟩] }

/-- The state after one step on the word `w` at pc. -/
def after (s : State) (w : Nat) : State :=
  match step (s.withFetchWord 16 w) with
  | .next t => t
  | .fault _ => s
  | .refused _ => s

/-- The cells that are set, as (column, row). -/
def cells (s : State) (rows cols : Nat) : List (Nat × Nat) :=
  (List.range rows).flatMap (fun y => ((List.range cols).filter (fun x => Frame.cell s.fb x y)).map (fun x => (x, y)))

/-- A buffer with the given cells set. -/
def frame (l : List (Nat × Nat)) : Frame := l.foldl (fun f p => Frame.flip f p.1 p.2) Frame.clear

/-- No quirk but those named. -/
def quirk (copy offset noFlag advance : Bool) (s : State) : State := { s with quirks := ⟨copy, offset, noFlag, advance⟩ }

/-- `s` with I set. -/
def index (w : Word) (s : State) : State := s.setIdx w

-- L2-B, control flow
theorem test_jp : (after base 0x1228).pc = 0x228#16 := by decide
theorem test_jp_top : (after base 0x1FFF).pc = 0xFFF#16 := by decide
theorem test_call : (after base 0x2300).pc = 0x300#16 ∧ (after base 0x2300).stack = [0x202#16] := by decide
theorem test_ret : (after { base with stack := [0x404#16, 0x202#16] } 0x00EE).pc = 0x404#16 ∧
    (after { base with stack := [0x404#16, 0x202#16] } 0x00EE).stack = [0x202#16] := by decide
theorem test_seImm : (after (regs [(3, 0x10)]) 0x3310).pc = 0x204#16 ∧ (after (regs [(3, 0x10)]) 0x3311).pc = 0x202#16 := by
  decide
theorem test_sneImm : (after (regs [(3, 0x10)]) 0x4311).pc = 0x204#16 ∧ (after (regs [(3, 0x10)]) 0x4310).pc = 0x202#16 := by
  decide
theorem test_seReg : (after (regs [(1, 7), (2, 7)]) 0x5120).pc = 0x204#16 ∧ (after (regs [(1, 7)]) 0x5110).pc = 0x204#16 := by
  decide
theorem test_sneReg : (after (regs [(1, 7), (2, 8)]) 0x9120).pc = 0x204#16 ∧ (after (regs [(1, 7)]) 0x9110).pc = 0x202#16 := by
  decide
theorem test_jpV0 : (after (regs [(0, 0x10), (3, 5)]) 0xB300).pc = 0x310#16 ∧
    (after (quirk true true false false (regs [(0, 0x10), (3, 5)])) 0xB300).pc = 0x305#16 := by decide
theorem test_jpV0_top : (after (regs [(0, 0xFF)]) 0xBFFF).pc = 0x10FE#16 := by decide

-- L2-B and L1-10, faults and the pc's wrap
theorem test_stack_overflow :
    let s := after { base with params := ⟨0, some 2⟩, stack := [0x302#16, 0x202#16], pc := 0x300#16 } 0x2400
    s.fault = some ⟨.stackOverflow, 0x300#16, 0x2400#16⟩ ∧ s.ports.faultCode = 3#3 ∧ s.runState = .stopped ∧
    s.stack = [0x302#16, 0x202#16] ∧ s.pc = 0x302#16 := by decide
theorem test_stack_underflow :
    let s := after base 0x00EE
    s.fault = some ⟨.stackUnderflow, 0x200#16, 0x00EE#16⟩ ∧ s.ports.faultCode = 2#3 ∧ s.runState = .stopped ∧
    s.pc = 0x202#16 := by decide
theorem test_unknown_opcode :
    let s := after base 0x5121
    s.fault = some ⟨.unknownOpcode, 0x200#16, 0x5121#16⟩ ∧ s.ports.faultCode = 1#3 ∧ s.runState = .stopped ∧
    s.pc = 0x202#16 ∧ s.ir = 0x5121#16 := by decide
theorem test_pc_wraps : (after { base with pc := 0xFFFE#16 } 0x6A42).pc = 0x0000#16 ∧
    (after { base with pc := 0xFFFE#16 } 0x6A42).reg 0xA#4 = 0x42#8 := by decide
theorem test_fetch_across_the_top : ({ base with pc := 0xFFF#16, mem := [(0xFFF, 0x6A#8)] } : State).fetch.ir = 0x6AF0#16 := by
  decide
theorem test_stopped : step { base with runState := .stopped } = .fault .stopped := rfl

-- L2-C, ALU
theorem test_ldImm : (after base 0x6A42).reg 0xA#4 = 0x42#8 := by decide
theorem test_addImm : (after (regs [(0, 0xFF), (15, 9)]) 0x7001).reg 0#4 = 0x00#8 ∧
    (after (regs [(0, 0xFF), (15, 9)]) 0x7001).reg 15#4 = 9#8 := by decide
theorem test_ldReg : (after (regs [(2, 0x33)]) 0x8120).reg 1#4 = 0x33#8 := by decide
theorem test_orReg : (after (regs [(1, 0xF0), (2, 0x0F), (15, 5)]) 0x8121).reg 1#4 = 0xFF#8 ∧
    (after (regs [(1, 0xF0), (2, 0x0F), (15, 5)]) 0x8121).reg 15#4 = 5#8 := by decide
theorem test_andReg : (after (regs [(1, 0xF0), (2, 0x3C)]) 0x8122).reg 1#4 = 0x30#8 := by decide
theorem test_xorReg : (after (regs [(1, 0xF0), (2, 0x3C)]) 0x8123).reg 1#4 = 0xCC#8 := by decide
theorem test_addReg : (after (regs [(1, 0xC8), (2, 0x64)]) 0x8124).reg 1#4 = 0x2C#8 ∧
    (after (regs [(1, 0xC8), (2, 0x64)]) 0x8124).reg 15#4 = 1#8 := by decide
theorem test_addReg_flag_wins : (after (regs [(1, 0xF0), (15, 0x10)]) 0x8F14).reg 15#4 = 1#8 := by decide
theorem test_subReg : (after (regs [(1, 5), (2, 7)]) 0x8125).reg 1#4 = 0xFE#8 ∧
    (after (regs [(1, 5), (2, 7)]) 0x8125).reg 15#4 = 0#8 := by decide
theorem test_subReg_equal : (after (regs [(1, 5), (2, 5)]) 0x8125).reg 15#4 = 1#8 := by decide
theorem test_shrReg : (after (regs [(2, 5)]) 0x8126).reg 1#4 = 2#8 ∧ (after (regs [(2, 5)]) 0x8126).reg 15#4 = 1#8 := by decide
theorem test_shrReg_in_place : (after (quirk false false false false (regs [(1, 5), (2, 0xFE)])) 0x8126).reg 1#4 = 2#8 ∧
    (after (quirk false false false false (regs [(1, 5), (2, 0xFE)])) 0x8126).reg 15#4 = 1#8 := by decide
theorem test_subnReg : (after (regs [(1, 5), (2, 7)]) 0x8127).reg 1#4 = 2#8 ∧
    (after (regs [(1, 5), (2, 7)]) 0x8127).reg 15#4 = 1#8 := by decide
theorem test_subnReg_equal : (after (regs [(1, 5), (2, 5), (15, 9)]) 0x8127).reg 15#4 = 0#8 := by decide
theorem test_shlReg : (after (regs [(2, 0x81)]) 0x812E).reg 1#4 = 2#8 ∧ (after (regs [(2, 0x81)]) 0x812E).reg 15#4 = 1#8 := by
  decide
theorem test_shlReg_in_place : (after (quirk false false false false (regs [(1, 0x81)])) 0x812E).reg 1#4 = 2#8 := by decide
theorem test_rnd : (after base 0xC10F).reg 1#4 = 0x07#8 := by decide

-- L2-D, index and memory
theorem test_ldI : (after base 0xA2F0).idx = 0x02F0#16 := by decide
theorem test_addI : (after (index 0x0FF8 (regs [(2, 0x10)])) 0xF21E).idx = 0x1008#16 ∧
    (after (index 0x0FF8 (regs [(2, 0x10)])) 0xF21E).reg 15#4 = 1#8 := by decide
theorem test_addI_wraps : (after (index 0xFFFF (regs [(2, 1), (15, 7)])) 0xF21E).idx = 0#16 ∧
    (after (index 0xFFFF (regs [(2, 1), (15, 7)])) 0xF21E).reg 15#4 = 0#8 ∧
    (after (quirk true false true false (index 0x0FF8 (regs [(2, 0x10)]))) 0xF21E).reg 15#4 = 0#8 := by decide
theorem test_ldF : (after (regs [(3, 0x0B)]) 0xF329).idx = 0x37#16 ∧ (after (regs [(3, 0x1A)]) 0xF329).idx = 0x32#16 := by decide
theorem test_ldB : let s := after (index 0x300 (regs [(5, 0x9C)])) 0xF533
    [s.memRead 0x300, s.memRead 0x301, s.memRead 0x302] = [1, 5, 6] ∧ s.idx = 0x300#16 := by decide
theorem test_ldB_wraps : let s := after (index 0xFFE (regs [(0, 0xFF)])) 0xF033
    [s.memRead 0xFFE, s.memRead 0xFFF, s.memRead 0x000] = [2, 5, 5] := by decide
theorem test_storeRegs : let s := after (index 0x400 (regs [(0, 1), (1, 2), (2, 3)])) 0xF255
    [s.memRead 0x400, s.memRead 0x401, s.memRead 0x402, s.memRead 0x403] = [1, 2, 3, 0] ∧ s.idx = 0x400#16 := by decide
theorem test_storeRegs_wraps :
    let s := after (quirk true false false true (index 0xFFE (regs [(0, 0x10), (1, 0x11), (2, 0x12), (3, 0x13)]))) 0xF355
    [s.memRead 0xFFE, s.memRead 0xFFF, s.memRead 0x000, s.memRead 0x001] = [0x10, 0x11, 0x12, 0x13] ∧ s.idx = 0x1001#16 := by
  decide
theorem test_loadRegs :
    let s := after { index 0x400 (regs [(3, 0x99)]) with mem := [(0x400, 1), (0x401, 2), (0x402, 3)] } 0xF265
    [s.reg 0, s.reg 1, s.reg 2, s.reg 3] = [1, 2, 3, 0x99] ∧ s.idx = 0x400#16 := by decide

-- L2-E, display
theorem test_drw_clips : let s := after { index 0x300 (regs [(0, 0x3C)]) with mem := [(0x300, 0xFF)] } 0xD011
    cells s 2 64 = [(60, 0), (61, 0), (62, 0), (63, 0)] ∧ s.reg 15#4 = 0#8 ∧ s.published = [s.fb] := by decide
theorem test_drw_collides :
    let s := after { index 0x300 base with mem := [(0x300, 0xF0)], fb := frame [(3, 0), (5, 0)] } 0xD001
    cells s 2 8 = [(0, 0), (1, 0), (2, 0), (5, 0)] ∧ s.reg 15#4 = 1#8 := by decide
theorem test_cls : let s := after { base with fb := frame [(0, 10), (63, 31)] } 0x00E0
    s.fb = Frame.clear ∧ s.published = [Frame.clear] := by decide

-- L2-F, keys and timers
theorem test_skp : (after (keys [0xA] (regs [(4, 0xA)])) 0xE49E).pc = 0x204#16 ∧
    (after (regs [(4, 0xA)]) 0xE49E).pc = 0x202#16 := by decide
theorem test_skp_filters : (after (keys [3, 20] (regs [(4, 3)])) 0xE49E).pc = 0x204#16 ∧
    (after (keys [3, 20] (regs [(4, 20)])) 0xE49E).pc = 0x202#16 := by decide
theorem test_sknp : (after (regs [(4, 0xA)]) 0xE4A1).pc = 0x204#16 ∧
    (after (keys [0xA, 3] (regs [(4, 0xA)])) 0xE4A1).pc = 0x202#16 := by decide
theorem test_ldVxDt : (after { base with dt := 0x3C#8 } 0xF107).reg 1#4 = 0x3C#8 := by decide
theorem test_ldVxK_waits : (after { base with pc := 0x210#16 } 0xF20A).pc = 0x210#16 := by decide
theorem test_ldVxK_takes : (after (keys [5] { base with pc := 0x210#16 }) 0xF20A).pc = 0x212#16 ∧
    (after (keys [5] { base with pc := 0x210#16 }) 0xF20A).reg 2#4 = 5#8 := by decide
theorem test_ldDtVx : (after (regs [(1, 5)]) 0xF115).dt = 5#8 := by decide
theorem test_ldStVx : (after { regs [(0, 0)] with st := 5#8, tone := true } 0xF018).st = 0#8 ∧
    (after { regs [(0, 0)] with st := 5#8, tone := true } 0xF018).tone = true := by decide
theorem test_timer_step : let s := { base with dt := 1#8, st := 5#8 }.timerStep
    s.dt = 0#8 ∧ s.st = 4#8 ∧ s.tone = true ∧ s.timerStep.dt = 0#8 := by decide
theorem test_cancel : step { base with inputs := [⟨.cancel, [], 0#8⟩] } =
    .next { base with inputs := [], now := 1, runState := .stopped } := rfl

-- L2-G, construction
theorem test_rom_bytes : ∀ t, construct (Build.withRom [0x60, 0x05]) = .next t →
    [t.memRead 0x1FF, t.memRead 0x200, t.memRead 0x201, t.memRead 0x202, t.memRead 0x000] = [0, 0x60, 0x05, 0, 0xF0] := by
  rintro t ⟨⟩; decide +kernel

/-! ### Witnesses: an input that meets all the hypotheses of a statement, for each of its cases -/

/-- ConstructionPlacesFontAndRom: the highest font base and the longest ROM that fits, and an empty ROM. -/
theorem test_witness_ConstructionPlacesFontAndRom :
    (∃ b : Build, b.params.fontBase = 432 ∧ b.params.fontBase + 80 ≤ 0x200 ∧ b.rom.length = 3584) ∧
    (∃ b : Build, b.params.fontBase = 0 ∧ b.params.fontBase + 80 ≤ 0x200 ∧ b.rom.length = 0) :=
  ⟨⟨{ Build.withRom (List.replicate 3584 0xAA#8) with params := ⟨432, none⟩ }, rfl, by decide, List.length_replicate⟩,
    ⟨Build.withRom [], rfl, by decide, rfl⟩⟩

/-- OversizedRomIsRejectedOrTruncated: one byte too many, under each setting. -/
theorem test_witness_OversizedRomIsRejectedOrTruncated :
    (∃ b : Build, b.params.fontBase + 80 ≤ 0x200 ∧ b.rom.length = 3585 ∧ b.romOversize = .reject) ∧
    (∃ b : Build, b.params.fontBase + 80 ≤ 0x200 ∧ b.rom.length = 3585 ∧ b.romOversize = .truncate) :=
  ⟨⟨Build.withRom (List.replicate 3585 0xAA#8), by decide, List.length_replicate, rfl⟩,
    ⟨{ Build.withRom (List.replicate 3585 0xAA#8) with romOversize := .truncate }, by decide, List.length_replicate, rfl⟩⟩

/-- DecoderFollowsTheOpcodeMap and EncodeInvertsDecode: a word that decodes; a row and a word that matches it. -/
theorem test_witness_DecoderFollowsTheOpcodeMap :
    decode 0xF165#16 = .op (.loadRegs 0x1#4) ∧
    (∃ r ∈ opcodeMap, r.mask = 0xF00F#16 ∧ 0x912F#16 &&& r.mask ≠ r.matchBits ∧ 0x9120#16 &&& r.mask = r.matchBits) :=
  ⟨by decide, Instr.row (.sneReg 0 0), List.mem_map_of_mem (by decide), by decide⟩

/-- FamiliesEAndFSelectOnTheLowByte: other low bytes of both families. -/
theorem test_witness_FamiliesEAndFSelectOnTheLowByte :
    (0xE19F#16).toNat / 0x1000 = 0xE ∧ (0xE19F#16).toNat % 0x100 ∉ [0x9E, 0xA1] ∧ (0xF130#16).toNat / 0x1000 = 0xF ∧
    (0xF130#16).toNat % 0x100 ∉ [0x07, 0x0A, 0x15, 0x18, 0x1E, 0x29, 0x33, 0x55, 0x65] := by decide

/-- StepRunsTheDecodedInstruction and PlacedWordIsTheNextInstruction: ADD V0, 0x03 at 0x202 (95_test_vectors.md L1-9). -/
theorem test_witness_StepRunsTheDecodedInstruction :
    let s := { base with pc := 0x202#16, mem := [(0x202, 0x70#8), (0x203, 0x03#8)] }
    s.runState = .running ∧ s.input.tick = .instruction ∧
    decodeBytes (s.memRead s.pc.toNat) (s.memRead (s.pc.toNat + 1)) = .op (.addImm 0x0#4 0x03#8) := by decide

theorem test_witness_PlacedWordIsTheNextInstruction :
    Memory.wf base.mem = true ∧ 0x7003 < 65536 ∧ decodeTableWord 16 0x7003 = some (.addImm 0x0#4 0x03#8) := by decide

/-- IllegalWordTakesUnknownOpcode: the empty ROM's first fetch (95_test_vectors.md L2-G). -/
theorem test_witness_IllegalWordTakesUnknownOpcode : base.runState = .running ∧ base.input.tick = .instruction ∧
    0x0000#16 = wordOfBytes (base.memRead base.pc.toNat) (base.memRead (base.pc.toNat + 1)) ∧ legalWord 0x0000#16 = false := by
  decide

/-- StoppedIsNeverLeft, OnlyAStoppedMachineMakesNoStep, ConfigurationIsFixedForTheRun: a stopped machine, and a step. -/
theorem test_witness_StoppedIsNeverLeft :
    ({ base with runState := .stopped } : State).runState = .stopped ∧ ∃ t, step base = .next t := ⟨rfl, _, rfl⟩

/-- TimerTickDecrementsBothTimers: a running machine and a timer tick, for timers at 0, 1 and 255. -/
theorem test_witness_TimerTickDecrementsBothTimers : ∀ b ∈ [0x00#8, 0x01#8, 0xFF#8],
    ∃ s : State, s.runState = .running ∧ s.input.tick = .timer ∧ s.dt = b ∧ s.st = b :=
  fun b _ => ⟨{ base with inputs := [⟨.timer, [], 0#8⟩], dt := b, st := b }, rfl, rfl, rfl, rfl⟩

/-- TimersSaturateAtZeroOverARun: six timer ticks from DT = 5 (95_test_vectors.md L1-7). -/
theorem test_witness_TimersSaturateAtZeroOverARun :
    let s := { base with dt := 5#8, inputs := List.replicate 6 ⟨.timer, [], 0#8⟩ }
    s.runState = .running ∧ 6 ≤ s.inputs.length ∧ ∀ i ∈ s.inputs.take 6, i.tick = .timer := by decide

/-- CancellationStopsTheRun. -/
theorem test_witness_CancellationStopsTheRun :
    let s := { base with inputs := [⟨.cancel, [], 0#8⟩] }
    s.runState = .running ∧ s.input.tick = .cancel ∧ s.fault = none := by decide

/-- AddSetsCarry, SubtractionsSetTheirFlags, AddIndexFlagsOverflow, DrawXorsTheClippedSprite: a register other than the flag
register, the highest one. ShiftsMoveOneBitIntoTheFlag: the source under each quirk setting. -/
theorem test_witness_ShiftsMoveOneBitIntoTheFlag : (0xE#4 : Nibble) ≠ 0xF#4 ∧
    (0x05#8 = if (regs [(2, 5)]).quirks.copyRegistersOnShift then (regs [(2, 5)]).reg 2#4 else (regs [(2, 5)]).reg 1#4) ∧
    let s := quirk false false false false (regs [(1, 5)])
    (0x05#8 = if s.quirks.copyRegistersOnShift then s.reg 2#4 else s.reg 1#4) := by decide

/-- RandomIsMaskedByTheImmediate: a bit of NN that is 0. -/
theorem test_witness_RandomIsMaskedByTheImmediate : (0x0F#8).getLsbD 7 = false ∧ (0x0F#8).getLsbD 4 = false := by decide

/-- AssignCopiesTheRegister: X = Y. RegisterSkipsCompareTwoRegisters: the illegal words of both families. -/
theorem test_witness_RegisterSkipsCompareTwoRegisters :
    (0x5121#16).toNat / 0x1000 = 0x5 ∧ (0x5121#16).toNat % 0x10 ≠ 0 ∧
    (0x912F#16).toNat / 0x1000 = 0x9 ∧ (0x912F#16).toNat % 0x10 ≠ 0 := by decide

/-- CallPushesTheReturnAddress, CallThenReturnComesBack: an unbounded stack, a finite one with one place left, a full one. -/
theorem test_witness_CallPushesTheReturnAddress :
    base.params.stackDepth ≠ some base.stack.length ∧
    (let s := { base with params := ⟨0, some 2⟩, stack := [0x202#16] }
     s.params.stackDepth ≠ some s.stack.length ∧
     ({ s with stack := [0x302#16, 0x202#16] } : State).params.stackDepth = some [0x302#16, 0x202#16].length) := by decide

theorem test_witness_CallThenReturnComesBack :
    ∃ p t u : State, p.params.stackDepth ≠ some p.stack.length ∧ exec (.call 0x300#12) p.fetch = .next t ∧ u.stack = t.stack :=
  ⟨base, _, { base with stack := [0x0202#16] }, by decide, rfl, rfl⟩

/-- ReturnPopsThePc: an empty stack and one that is not. -/
theorem test_witness_ReturnPopsThePc :
    base.stack = [] ∧ ({ base with stack := [0x404#16, 0x202#16] } : State).stack = 0x404#16 :: [0x202#16] := by decide

/-- IndexLoadsSetI: the highest font base. -/
theorem test_witness_IndexLoadsSetI : ∃ s : State, s.params.fontBase = 432 ∧ s.params.fontBase + 80 ≤ 0x200 :=
  ⟨{ base with params := ⟨432, none⟩ }, rfl, by decide⟩

/-- AddIndexFlagsOverflow: both settings of the quirk. -/
theorem test_witness_AddIndexFlagsOverflow : base.quirks.disableSetFlagOnIrOverflow = false ∧
    (quirk true false true false base).quirks.disableSetFlagOnIrOverflow = true ∧ (0x0#4 : Nibble) ≠ 0xF#4 := by decide

/-- BcdStoresThreeDigits: a canonical memory, I at the top, an address that none of the three bytes goes to. -/
theorem test_witness_BcdStoresThreeDigits :
    let s := { index 0xFFE base with mem := [(0x300, 0x01#8)] }
    Memory.wf s.mem = true ∧ ∀ k < 3, 0x300 % 4096 ≠ s.effective k % 4096 := by decide

/-- StoreRegistersFillsMemory: X = 15 from the top of memory, the last register, and an address beyond the stored bytes. -/
theorem test_witness_StoreRegistersFillsMemory :
    let s := index 0xFFF base
    Memory.wf s.mem = true ∧ (0xF#4 : Nibble).toNat ≤ (0xF#4 : Nibble).toNat ∧
    ∀ k ≤ (0xF#4 : Nibble).toNat, 0x00F % 4096 ≠ s.effective k % 4096 := by decide

/-- LoadRegistersReadsMemoryBack: a register up to X and one above it; a store and a state with the stored memory. -/
theorem test_witness_LoadRegistersReadsMemoryBack :
    ((0xE#4 : Nibble).toNat ≤ (0xE#4 : Nibble).toNat ∧ (0xE#4 : Nibble).toNat < (0xF#4 : Nibble).toNat) ∧
    ∃ s u w : State, Memory.wf s.mem = true ∧ s.quirks.incrementIndexRegisterOnLoadSave = false ∧
      exec (.storeRegs 0xE#4) s = .next u ∧ w.mem = u.mem ∧ w.idx = u.idx :=
  ⟨by decide, index 0xFFF base, _, _, by decide, by decide, rfl, rfl, rfl⟩

/-- StoredBytesAreFetchedNext: pc and I at the same byte of memory, I above 0x0FFF. -/
theorem test_witness_StoredBytesAreFetchedNext :
    ∃ s t : State, Memory.wf s.mem = true ∧ 1 ≤ (0x1#4 : Nibble).toNat ∧ s.pc.toNat % 4096 = s.idx.toNat % 4096 ∧
      exec (.storeRegs 0x1#4) s = .next t :=
  ⟨index 0x1200 base, _, by decide, by decide, by decide, rfl⟩

/-- DrawingTwiceRestoresTheBuffer: an 8 by 1 sprite clipped at column 63 of a clear buffer (95_test_vectors.md L1-5). -/
theorem test_witness_DrawingTwiceRestoresTheBuffer :
    ∃ s t : State, exec (.drw 0x0#4 0x1#4 0x1#4) s = .next t ∧
      (t.reg 0x0#4).toNat % 64 = (s.reg 0x0#4).toNat % 64 ∧ (t.reg 0x1#4).toNat % 32 = (s.reg 0x1#4).toNat % 32 ∧
      Frame.cell s.fb 63 0 = false ∧
      s.spriteBit (s.effective 0) ((s.reg 0x0#4).toNat % 64) ((s.reg 0x1#4).toNat % 32) (0x1#4).toNat 63 0 = true :=
  ⟨{ index 0x300 (regs [(0, 0x3C)]) with mem := [(0x300, 0xFF)] }, _, rfl, by decide, by decide, by decide, by decide⟩

/-- FramePortCarriesTheCells: the last cell. -/
theorem test_witness_FramePortCarriesTheCells : 63 < 64 ∧ 31 < 32 := by decide

/-- KeyWaitRewindsOrTakesAKey: no key, only an invalid one, the highest valid one. -/
theorem test_witness_KeyWaitRewindsOrTakesAKey : (∀ k ∈ base.input.keys, ¬ k < 16) ∧
    (∀ k ∈ (keys [16] base).input.keys, ¬ k < 16) ∧ ∃ k ∈ (keys [16, 15] base).input.keys, k < 16 := by decide

/-- SetSoundTimerLeavesTheTone: ST = 1. -/
theorem test_witness_SetSoundTimerLeavesTheTone :
    ∃ s t : State, s.reg 0x1#4 = 1#8 ∧ exec (.ldStVx 0x1#4) s = .next t := ⟨regs [(1, 1)], _, by decide, rfl⟩

/-- OnlyTheListedInstructionsWriteRegisters: a destination that changes, and the flag register of an instruction that does not
name it. -/
theorem test_witness_OnlyTheListedInstructionsWriteRegisters :
    (∃ s t : State, exec (.ldImm 0x1#4 0x05#8) s = .next t ∧ t.reg 0x1#4 ≠ s.reg 0x1#4) ∧
    (∃ s t : State, exec (.addReg 0x1#4 0x2#4) s = .next t ∧ t.reg 0xF#4 ≠ s.reg 0xF#4) :=
  ⟨⟨base, _, rfl, by decide⟩, ⟨regs [(1, 0x80), (2, 0x80)], _, rfl, by decide⟩⟩

/-- OnlyIndexInstructionsWriteI: without a quirk, and FX55 under the quirk. -/
theorem test_witness_OnlyIndexInstructionsWriteI :
    (∃ s t : State, exec (.ldI 0x2F0#12) s = .next t ∧ t.idx ≠ s.idx) ∧
    (∃ s t : State, exec (.storeRegs 0x1#4) s = .next t ∧ t.idx ≠ s.idx) :=
  ⟨⟨base, _, rfl, by decide⟩, ⟨quirk true false false true base, _, rfl, by decide⟩⟩

/-- StackAndMemoryHaveTheirOwnInstructions: a call changes the stack, FX33 changes memory. -/
theorem test_witness_StackAndMemoryHaveTheirOwnInstructions :
    (∃ s t : State, exec (.call 0x300#12) s = .next t ∧ t.stack ≠ s.stack) ∧
    (∃ s t : State, exec (.ldB 0x1#4) s = .next t ∧ t.mem ≠ s.mem) :=
  ⟨⟨base, _, rfl, by decide⟩, ⟨regs [(1, 0x9C)], _, rfl, by decide⟩⟩

/-- DisplayAndTimersHaveTheirOwnInstructions: a display instruction, another, and changes of DT and of ST. -/
theorem test_witness_DisplayAndTimersHaveTheirOwnInstructions :
    (∃ s t : State, exec .cls s = .next t) ∧
    (∃ s t : State, exec (.ldDtVx 0x1#4) s = .next t ∧ t.dt ≠ s.dt) ∧
    (∃ s t : State, exec (.ldStVx 0x1#4) s = .next t ∧ t.st ≠ s.st) :=
  ⟨⟨base, _, rfl⟩, ⟨regs [(1, 5)], _, rfl, by decide⟩, ⟨regs [(1, 5)], _, rfl, by decide⟩⟩

/-- NoInstructionReadsTheSoundTimer, OnlyFourInstructionsUseTheInputs, TimerStepCommutesWithOtherInstructions: FX33 answers a
next state and is none of the exceptions. -/
theorem test_witness_WholeMachineStatements :
    (∃ s t : State, exec (.ldB 0x1#4) s = .next t) ∧
    (∀ x, Instr.ldB 0x1#4 ≠ .skp x ∧ Instr.ldB 0x1#4 ≠ .sknp x ∧ Instr.ldB 0x1#4 ≠ .ldVxK x) ∧
    (∀ x nn, Instr.ldB 0x1#4 ≠ .rnd x nn) ∧
    (∀ x, Instr.ldB 0x1#4 ≠ .ldVxDt x ∧ Instr.ldB 0x1#4 ≠ .ldDtVx x ∧ Instr.ldB 0x1#4 ≠ .ldStVx x) :=
  ⟨⟨base, _, rfl⟩, by simp, by simp, by simp⟩

/-- FaultsArePreciseAndSingle: each of the two faults. -/
theorem test_witness_FaultsArePreciseAndSingle :
    (∃ s t : State, exec .ret s = .next t ∧ t.runState ≠ s.runState) ∧
    (∃ s t : State, exec (.call 0x300#12) s = .next t ∧ t.fault ≠ s.fault) :=
  ⟨⟨base, _, rfl, by decide⟩, ⟨{ base with params := ⟨0, some 0⟩ }, _, rfl, by decide⟩⟩

/-- The invariant holds at reset, so a state with the invariant and a step exist. -/
theorem test_witness_EveryStepKeepsTheInvariant : ∃ s t : State, s.Inv ∧ step s = .next t :=
  ⟨base, _, ⟨rfl, rfl, (fun _ h => nomatch h), (fun _ => rfl), (fun _ h => nomatch h)⟩, rfl⟩

/-- The state that construction makes of an empty ROM. -/
def emptyRom : State :=
  { State.reset with mem := Memory.writeList (Memory.writeList Memory.zeroed 0 defaultFont.toList) 0x200 [] }

/-- `emptyRom` with an instruction tick for the coming step. -/
def emptyRomStart : State := { emptyRom with inputs := [⟨.instruction, [], 0#8⟩] }

/-- Whether a step ends in a state with a fault record. -/
def ended (r : Result) : Bool :=
  match r with
  | .next t => t.fault.isSome
  | .fault _ => false
  | .refused _ => false

/-- ReachableStatesMeetTheInvariant: a state after construction, and one that a fault has ended after one step. -/
theorem test_witness_ReachableStatesMeetTheInvariant : (∃ s, Reachable s ∧ s.Safe) ∧ ∃ s, Reachable s ∧ ¬ s.Safe := by
  have hc : construct (Build.withRom []) = .next emptyRom := rfl
  have h0 : Reachable emptyRomStart := .start _ _ _ hc
  have h1 : ended (step emptyRomStart) = true := by decide +kernel
  refine ⟨⟨emptyRomStart, h0, rfl⟩, ?_⟩
  cases h : step emptyRomStart with
  | next t =>
    refine ⟨t, .step _ _ h0 h, fun hs => ?_⟩
    rw [h, ended, show t.fault = none from hs] at h1
    cases h1
  | fault r => rw [h] at h1; cases h1
  | refused r => rw [h] at h1; cases h1

end Sys2Proof.Tests
end

section

namespace Sys2Proof.Machine

/-- The only two run states (10_state.md R48). -/
theorem RunState.eq_running_or_eq_stopped (r : RunState) : r = .running ∨ r = .stopped := by
  cases r with
  | running => exact .inl rfl
  | stopped => exact .inr rfl

/-- A stopped machine answers the interface's form of "no step" (log 6), whatever its trigger. -/
theorem step_of_stopped {s : State} (h : s.runState = .stopped) : step s = .fault .stopped := by
  rw [step, h]

/-- Settles O13: the field laws of `cancel` and `raise` give the two ways into Stopped, and every case of a step that
answers a next state starts from Running (`step_cases`). -/
theorem stoppedIsNeverLeft : Obligations.StoppedIsNeverLeft :=
  ⟨RunState.eq_running_or_eq_stopped, State.cancel_runState, State.raise_runState,
    fun _ => step_of_stopped, fun _ _ h => (step_cases h).1⟩

end Sys2Proof.Machine
end

section

namespace Sys2Proof

/-! ### The second dispatch level of families 0xE and 0xF, one lemma per row (30_encoding.md R108)

Each says which instruction a low byte selects, with X the word's own; the last one of a family takes every byte that no row
lists. -/

theorem decode_skp {w : Word} (hF : fieldF w = 0xE#4) (hNN : fieldNN w = 0x9E#8) : decode w = .op (.skp (fieldX w)) := by
  simp [decode_familyE hF, decodeFamilyE, hNN]
theorem decode_sknp {w : Word} (hF : fieldF w = 0xE#4) (hNN : fieldNN w = 0xA1#8) : decode w = .op (.sknp (fieldX w)) := by
  simp [decode_familyE hF, decodeFamilyE, hNN]

theorem decode_familyE_unlisted {w : Word} (hF : fieldF w = 0xE#4) (hNN : w.toNat % 0x100 ∉ [0x9E, 0xA1]) :
    decode w = .unknownOpcode := by
  simp only [List.mem_cons, List.not_mem_nil, or_false, not_or] at hNN
  simp [decode_familyE hF, decodeFamilyE, fieldNN_eq_iff, hNN]

theorem decode_ldVxDt {w : Word} (hF : fieldF w = 0xF#4) (hNN : fieldNN w = 0x07#8) : decode w = .op (.ldVxDt (fieldX w)) := by
  simp [decode_familyF hF, decodeFamilyF, hNN]
theorem decode_ldVxK {w : Word} (hF : fieldF w = 0xF#4) (hNN : fieldNN w = 0x0A#8) : decode w = .op (.ldVxK (fieldX w)) := by
  simp [decode_familyF hF, decodeFamilyF, hNN]
theorem decode_ldDtVx {w : Word} (hF : fieldF w = 0xF#4) (hNN : fieldNN w = 0x15#8) : decode w = .op (.ldDtVx (fieldX w)) := by
  simp [decode_familyF hF, decodeFamilyF, hNN]
theorem decode_ldStVx {w : Word} (hF : fieldF w = 0xF#4) (hNN : fieldNN w = 0x18#8) : decode w = .op (.ldStVx (fieldX w)) := by
  simp [decode_familyF hF, decodeFamilyF, hNN]
theorem decode_addI {w : Word} (hF : fieldF w = 0xF#4) (hNN : fieldNN w = 0x1E#8) : decode w = .op (.addI (fieldX w)) := by
  simp [decode_familyF hF, decodeFamilyF, hNN]
theorem decode_ldF {w : Word} (hF : fieldF w = 0xF#4) (hNN : fieldNN w = 0x29#8) : decode w = .op (.ldF (fieldX w)) := by
  simp [decode_familyF hF, decodeFamilyF, hNN]
theorem decode_ldB {w : Word} (hF : fieldF w = 0xF#4) (hNN : fieldNN w = 0x33#8) : decode w = .op (.ldB (fieldX w)) := by
  simp [decode_familyF hF, decodeFamilyF, hNN]
theorem decode_storeRegs {w : Word} (hF : fieldF w = 0xF#4) (hNN : fieldNN w = 0x55#8) :
    decode w = .op (.storeRegs (fieldX w)) := by
  simp [decode_familyF hF, decodeFamilyF, hNN]
theorem decode_loadRegs {w : Word} (hF : fieldF w = 0xF#4) (hNN : fieldNN w = 0x65#8) :
    decode w = .op (.loadRegs (fieldX w)) := by
  simp [decode_familyF hF, decodeFamilyF, hNN]

theorem decode_familyF_unlisted {w : Word} (hF : fieldF w = 0xF#4)
    (hNN : w.toNat % 0x100 ∉ [0x07, 0x0A, 0x15, 0x18, 0x1E, 0x29, 0x33, 0x55, 0x65]) : decode w = .unknownOpcode := by
  simp only [List.mem_cons, List.not_mem_nil, or_false, not_or] at hNN
  simp [decode_familyF hF, decodeFamilyF, fieldNN_eq_iff, hNN]

/-- X is free: where the family and the low byte select `op`, the base word with any X in its field decodes to `op x`. -/
theorem decode_wordX {b : Word} {op : Nibble → Instr} (x : Nibble) (hX : b &&& 0x0F00#16 = 0#16)
    (hsel : ∀ {w : Word}, fieldF w = fieldF b → fieldNN w = fieldNN b → decode w = .op (op (fieldX w))) :
    decode (wordX b x) = .op (op x) := by
  rw [hsel (fieldF_wordX b x) (fieldNN_wordX b x), fieldX_wordX x hX]

end Sys2Proof
end

section

namespace Sys2Proof.Machine

/-- Settles O8: the base word of each row has the row's family and low byte (`decode_wordX`), and a low byte of no row fails
every test of the second level. -/
theorem familiesEAndFSelectOnTheLowByte : Obligations.FamiliesEAndFSelectOnTheLowByte :=
  ⟨fun x => ⟨decode_wordX x rfl decode_skp, decode_wordX x rfl decode_sknp, decode_wordX x rfl decode_ldVxDt,
      decode_wordX x rfl decode_ldVxK, decode_wordX x rfl decode_ldDtVx, decode_wordX x rfl decode_ldStVx,
      decode_wordX x rfl decode_addI, decode_wordX x rfl decode_ldF, decode_wordX x rfl decode_ldB,
      decode_wordX x rfl decode_storeRegs, decode_wordX x rfl decode_loadRegs⟩,
    fun w hF => decode_familyE_unlisted ((fieldF_eq_iff w 0xE#4).mpr hF),
    fun w hF => decode_familyF_unlisted ((fieldF_eq_iff w 0xF#4).mpr hF)⟩

end Sys2Proof.Machine
end

section

namespace Sys2Proof

/-! ### The words of formats XNN and NNN (30_encoding.md R102)

Where the family alone selects the instruction, every operand of the format is free; a family's lemma of the first dispatch
level is the hypothesis `hsel`. -/

theorem decode_wordXNN {b : Word} {op : Nibble → Byte → Instr} (x : Nibble) (nn : Byte) (hb : b &&& 0x0FFF#16 = 0#16)
    (hsel : ∀ {w : Word}, fieldF w = fieldF b → decode w = .op (op (fieldX w) (fieldNN w))) :
    decode (wordXNN b x nn) = .op (op x nn) := by
  rw [hsel (fieldF_wordXNN b x nn), fieldX_wordXNN x nn hb, fieldNN_wordXNN x nn hb]

theorem decode_wordNNN {b : Word} {op : Imm12 → Instr} (nnn : Imm12) (hb : b &&& 0x0FFF#16 = 0#16)
    (hsel : ∀ {w : Word}, fieldF w = fieldF b → decode w = .op (op (fieldNNN w))) :
    decode (wordNNN b nnn) = .op (op nnn) := by
  rw [hsel (fieldF_wordNNN b nnn), fieldNNN_wordNNN nnn hb]

end Sys2Proof

namespace Sys2Proof.Machine

/-! ### The two immediate skips (40_control_flow.md R147, R148) -/

theorem exec_seImm (x : Nibble) (nn : Byte) (s : State) :
    exec (.seImm x nn) s = .next { s with pc := if s.reg x = nn then s.pc + 2#16 else s.pc } := by
  rw [exec, execSeImm, State.skipIf_eq]
  simp only [beq_iff_eq]

theorem exec_sneImm (x : Nibble) (nn : Byte) (s : State) :
    exec (.sneImm x nn) s = .next { s with pc := if s.reg x ≠ nn then s.pc + 2#16 else s.pc } := by
  rw [exec, execSneImm, State.skipIf_eq]
  simp only [bne_iff_ne]

/-- Settles O25: families 0x3 and 0x4 are selected by the family alone (`decode_wordXNN`), and a skip's Boolean test is its
condition on the register. -/
theorem immediateSkipsCompareTheRegister : Obligations.ImmediateSkipsCompareTheRegister := fun x nn s =>
  ⟨decode_wordXNN x nn rfl decode_family3, decode_wordXNN x nn rfl decode_family4, exec_seImm x nn s, exec_sneImm x nn s⟩

/-! ### The two jumps (40_control_flow.md R145, R151) -/

theorem exec_jp (nnn : Imm12) (s : State) : exec (.jp nnn) s = .next (s.setPc (addressOf nnn)) := rfl

theorem exec_jpV0 (nnn : Imm12) (s : State) :
    exec (.jpV0 nnn) s = .next (s.setPc (addressOf nnn + (s.jumpOffset nnn).setWidth 16)) := rfl

/-- The zero extension keeps all 12 bits (30_encoding.md R103). -/
theorem addressOf_toNat (nnn : Imm12) : (addressOf nnn).toNat = nnn.toNat := by
  have := nnn.isLt
  rw [addressOf, BitVec.toNat_setWidth, Nat.mod_eq_of_lt (by omega)]

/-- At most 0xFFF + 0xFF = 0x10FE, so the 16-bit sum loses nothing (R151). -/
theorem addressOf_add_byte_toNat (nnn : Imm12) (b : Byte) :
    (addressOf nnn + b.setWidth 16).toNat = nnn.toNat + b.toNat := by
  have := nnn.isLt
  have := b.isLt
  rw [BitVec.toNat_add, addressOf_toNat, BitVec.toNat_setWidth]
  omega

/-- `NNN[11:8]` as a number: the register index that the quirk takes from the address. -/
theorem imm12_high_nibble (nnn : Imm12) : nnn.extractLsb' 8 4 = BitVec.ofNat 4 (nnn.toNat / 256) := by
  apply BitVec.eq_of_toNat_eq
  rw [BitVec.extractLsb'_toNat, BitVec.toNat_ofNat, Nat.shiftRight_eq_div_pow]

theorem State.jumpOffset_eq (s : State) (nnn : Imm12) : s.jumpOffset nnn =
    if s.quirks.variableOffsetRegister then s.reg (BitVec.ofNat 4 (nnn.toNat / 256)) else s.reg 0x0#4 := by
  rw [State.jumpOffset, imm12_high_nibble]

/-- Settles O27: both jumps are a `setPc`; neither target wraps (`addressOf_toNat`, `addressOf_add_byte_toNat`), and the fetch
after BNNN reads the memory that the jump left alone. -/
theorem jumpsSetPc : Obligations.JumpsSetPc := by
  intro nnn s
  refine ⟨decode_wordNNN nnn rfl decode_family1, decode_wordNNN nnn rfl decode_familyB,
    ⟨_, exec_jp nnn s, addressOf_toNat nnn, rfl⟩, ⟨_, exec_jpV0 nnn s, ?_, rfl, rfl⟩⟩
  rw [State.setPc_pc, addressOf_add_byte_toNat, State.jumpOffset_eq]

/-! ### Call and return (40_control_flow.md R143, R144, R146) -/

theorem exec_call_room {s : State} (nnn : Imm12) (h : s.params.stackDepth ≠ some s.stack.length) :
    exec (.call nnn) s = .next { s with pc := addressOf nnn, stack := s.pc :: s.stack } := by
  rw [exec, execCall, State.push_room s.pc h]
  rfl

theorem exec_ret_cons {s : State} {a : Word} {rest : List Word} (h : s.stack = a :: rest) :
    exec .ret s = .next { s with pc := a, stack := rest } := by
  rw [exec, execRet, State.popPc_cons h]
  rfl

theorem exec_ret_nil {s : State} (h : s.stack = []) : exec .ret s = .next (s.raise .stackUnderflow) := by
  rw [exec, execRet, State.popPc_nil h]
  rfl

/-- Settles O29: the two shapes of the stack are the two outcomes of `popPc`. -/
theorem returnPopsThePc : Obligations.ReturnPopsThePc :=
  ⟨decode_family0 rfl, fun _ => ⟨fun _ _ h => exec_ret_cons h, fun h => exec_ret_nil h⟩⟩

/-- Settles O30: the fetch has advanced pc to P + 2 before the call pushes it (`exec_call_room`), so a return over that stack
pops P + 2 (`exec_ret_cons`); neither touches a register or memory. -/
theorem callThenReturnComesBack : Obligations.CallThenReturnComesBack := by
  intro nnn p hroom
  refine ⟨_, exec_call_room nnn hroom, rfl, fun _ => rfl, fun _ => rfl, fun u hu => ?_⟩
  exact ⟨_, exec_ret_cons hu, rfl, rfl, fun _ => rfl⟩

end Sys2Proof.Machine
end

section

namespace Sys2Proof

/-! ### The words of format XY (30_encoding.md R102)

Family 0x8 also fixes N, so a row's selection needs both fields of the base word; X and Y stay free. -/

theorem decode_wordXY {b : Word} {op : Nibble → Nibble → Instr} (x y : Nibble) (hb : b &&& 0x0FF0#16 = 0#16)
    (hsel : ∀ {w : Word}, fieldF w = fieldF b → fieldN w = fieldN b → decode w = .op (op (fieldX w) (fieldY w))) :
    decode (wordXY b x y) = .op (op x y) := by
  rw [hsel (fieldF_wordXY b x y) (fieldN_wordXY b x y), fieldX_wordXY x y hb, fieldY_wordXY x y hb]

/-- The row N = 0 of family 0x8 (R107). -/
theorem decode_ldReg {w : Word} (hF : fieldF w = 0x8#4) (hN : fieldN w = 0x0#4) :
    decode w = .op (.ldReg (fieldX w) (fieldY w)) := by
  rw [decode_family8 hF, decodeFamily8, if_pos hN]

end Sys2Proof

namespace Sys2Proof.Machine

/-! ### One register written (10_state.md R31, R32) -/

/-- The frame of every instruction that is a single register write. -/
theorem State.setReg_onlyRegisters (s : State) (x : Nibble) (b : Byte) : OnlyRegisters s (s.setReg x b) [x] :=
  ⟨fun _ hr => State.setReg_reg_other s b (List.ne_of_not_mem_cons hr), State.setReg_memRead s x b, State.setReg_eq s x b⟩

/-- Writing back the value a register holds changes nothing. -/
@[simp] theorem State.setReg_reg_self (s : State) (x : Nibble) : s.setReg x (s.reg x) = s := by
  simp only [State.setReg, State.reg, Vector.set_getElem_self]

/-! ### Load immediate, add immediate, assign (41_alu.md R181-R183) -/

theorem exec_ldImm (x : Nibble) (nn : Byte) (s : State) : exec (.ldImm x nn) s = .next (s.setReg x nn) := rfl

theorem exec_addImm (x : Nibble) (nn : Byte) (s : State) : exec (.addImm x nn) s = .next (s.setReg x (s.reg x + nn)) := rfl

theorem exec_ldReg (x y : Nibble) (s : State) : exec (.ldReg x y) s = .next (s.setReg x (s.reg y)) := rfl

/-- Settles O17: family 0x6 is selected by the family alone, and the instruction is one register write. -/
theorem loadImmediateSetsTheRegister : Obligations.LoadImmediateSetsTheRegister := fun x nn s =>
  ⟨decode_wordXNN x nn rfl decode_family6, _, exec_ldImm x nn s, State.setReg_reg_same s x nn,
    State.setReg_onlyRegisters s x nn⟩

/-- Settles O18: the 8-bit sum is the sum modulo 256 (`BitVec.toNat_add`), and the one write leaves V[0xF] alone unless it is
the destination. -/
theorem addImmediateWrapsWithoutFlag : Obligations.AddImmediateWrapsWithoutFlag := by
  intro x nn s
  refine ⟨decode_wordXNN x nn rfl decode_family7, _, exec_addImm x nn s, ?_, State.setReg_onlyRegisters s x _⟩
  rw [State.setReg_reg_same, BitVec.toNat_add]

/-- Settles O19: family 0x8 with N = 0 selects the instruction (`decode_ldReg`); with X = Y the write puts back what the
register holds (`State.setReg_reg_self`). -/
theorem assignCopiesTheRegister : Obligations.AssignCopiesTheRegister := by
  intro x y s
  refine ⟨decode_wordXY x y rfl decode_ldReg, _, exec_ldReg x y s, State.setReg_reg_same s x _,
    State.setReg_onlyRegisters s x _, ?_⟩
  rintro rfl
  exact State.setReg_reg_self s x

end Sys2Proof.Machine
end

section

namespace Sys2Proof.Machine

/-! ### The two plain loads of I (42_index_memory.md R221, R223) -/

theorem exec_ldI (nnn : Imm12) (s : State) : exec (.ldI nnn) s = .next (s.setIdx (addressOf nnn)) := rfl

theorem exec_ldF (x : Nibble) (s : State) : exec (.ldF x) s = .next (s.setIdx (s.glyphAddress (s.reg x))) := rfl

/-- The mask of R223 keeps the low nibble. -/
theorem byte_and_low_nibble_toNat (a : Byte) : (a &&& 0x0F#8).toNat = a.toNat % 16 := by
  rw [BitVec.toNat_and]
  exact Nat.and_two_pow_sub_one_eq_mod a.toNat 4

theorem State.glyphAddress_eq (s : State) (a : Byte) :
    s.glyphAddress a = BitVec.ofNat 16 (s.params.fontBase + 5 * (a.toNat % 16)) := by
  rw [State.glyphAddress, byte_and_low_nibble_toNat]

/-- Under the bound of R353 (decision D10) every glyph lies below 0x200, so the 16-bit address loses nothing. -/
theorem State.glyphAddress_toNat {s : State} (a : Byte) (h : s.params.fontBase + 80 ≤ 0x200) :
    (s.glyphAddress a).toNat = s.params.fontBase + 5 * (a.toNat % 16) := by
  rw [State.glyphAddress_eq, BitVec.toNat_ofNat, Nat.mod_eq_of_lt (by omega)]

/-- Settles O31: both instructions are a `setIdx`, so I alone changes; ANNN's address keeps all 12 bits (`addressOf_toNat`),
FX29's is the glyph's (`State.glyphAddress_eq`), exact within the bound (`State.glyphAddress_toNat`). -/
theorem indexLoadsSetI : Obligations.IndexLoadsSetI :=
  ⟨fun nnn s => ⟨decode_wordNNN nnn rfl decode_familyA, _, exec_ldI nnn s, addressOf_toNat nnn, rfl⟩,
    fun x s => ⟨decode_wordX x rfl decode_ldF, _, exec_ldF x s, State.glyphAddress_eq s (s.reg x),
      State.glyphAddress_toNat (s.reg x), rfl⟩⟩

end Sys2Proof.Machine
end

section

namespace Sys2Proof.Machine

/-! ### Clear screen (43_sprite_display.md R251) -/

/-- The published frame is the cleared one: the buffer is written before it is handed to the boundary. -/
theorem exec_cls (s : State) :
    exec .cls s = .next { s with fb := Frame.clear, published := Frame.clear :: s.published } := rfl

/-- Settles O37: 0x00E0 is the one word of its row in family 0x0, and the buffer and the published frame are both the cleared
frame (`exec_cls`), whose cells are all 0 (`Frame.cell_clear`). -/
theorem clearScreenClearsEveryCell : Obligations.ClearScreenClearsEveryCell :=
  ⟨decode_family0 rfl, fun s => ⟨_, exec_cls s, fun x _ y _ => Frame.cell_clear x y, rfl⟩⟩

end Sys2Proof.Machine
end

section

namespace Sys2Proof.Machine

/-! ### Set delay timer (44_keys_timers.md R286) -/

theorem exec_ldDtVx (x : Nibble) (s : State) : exec (.ldDtVx x) s = .next (s.setDt (s.reg x)) := rfl

/-- The countdown of R320 over any number of timer steps; the truncated subtraction is the saturation at 0. -/
theorem State.timerStep_iterate_dt_toNat (s : State) (n : Nat) : (State.timerStep^[n] s).dt.toNat = s.dt.toNat - n := by
  induction n with
  | zero => rfl
  | succ n ih => rw [Function.iterate_succ_apply', State.timerStep_dt, timerDecrement_toNat, ih, Nat.sub_sub]

/-- Settles O44: the low byte 0x15 selects the row for every X (`decode_wordX`), the instruction is one write of DT, and the
timer steps count down from the value written (`State.timerStep_iterate_dt_toNat`). -/
theorem setDelayTimerWritesDtOnly : Obligations.SetDelayTimerWritesDtOnly := fun x s =>
  ⟨decode_wordX x rfl decode_ldDtVx, _, exec_ldDtVx x s, rfl, State.timerStep_iterate_dt_toNat (s.setDt (s.reg x))⟩

end Sys2Proof.Machine
end

section

namespace Sys2Proof.Machine

/-! ### No instruction is barred from a state, and none writes the configuration (60_exceptions.md R327) -/

/-- A completed operation answers a next state in either case: a stack fault is taken, not stuck (log 8). -/
theorem State.complete_answers (s : State) (r : Except FaultCause State) : ∃ t, s.complete r = .next t := by
  rcases s.complete_next r with ⟨t, -, h⟩ | ⟨c, -, h⟩
  · exact ⟨t, h⟩
  · exact ⟨s.raise c, h⟩

/-- Only the two stack instructions can fault, and they complete; every other one is a `.next` by definition. -/
theorem exec_answers (i : Instr) (s : State) : ∃ t, exec i s = .next t := by
  cases i with
  | ret | call nnn => exact s.complete_answers _
  | _ => exact ⟨_, rfl⟩

theorem skipIf_keeps_configuration {s t : State} {c : Bool} (h : Host.Outcome.next (s.skipIf c) = (.next t : Result)) :
    t.quirks = s.quirks ∧ t.params = s.params := by
  cases h
  exact ⟨s.skipIf_quirks c, s.skipIf_params c⟩

/-- The instructions whose effect depends on a test or a count are taken apart; the others write fields by name, and neither
configuration field is among them. -/
theorem exec_keeps_configuration {i : Instr} {s t : State} (h : exec i s = .next t) :
    t.quirks = s.quirks ∧ t.params = s.params := by
  cases i with
  | ret => rcases execRet_cases h with ⟨-, rfl⟩ | ⟨a, rest, -, rfl⟩ <;> exact ⟨rfl, rfl⟩
  | call nnn => rcases execCall_cases h with ⟨-, rfl⟩ | ⟨-, rfl⟩ <;> exact ⟨rfl, rfl⟩
  | ldVxK x => rcases execLdVxK_cases h with ⟨-, rfl⟩ | ⟨k, ks, -, rfl⟩ <;> exact ⟨rfl, rfl⟩
  | addI x => rcases execAddI_cases h with ⟨-, rfl⟩ | ⟨-, rfl⟩ <;> exact ⟨rfl, rfl⟩
  | seImm | sneImm | seReg | sneReg | skp | sknp => exact skipIf_keeps_configuration h
  | loadRegs x => cases h; exact ⟨s.loadFirstRegs_quirks _ _, s.loadFirstRegs_params _ _⟩
  | _ => cases h; exact ⟨rfl, rfl⟩

/-- Settles O54: every instruction answers (`exec_answers`), and whatever it answers keeps the quirks
(`exec_keeps_configuration`). -/
theorem everyInstructionRunsInEveryState : Obligations.EveryInstructionRunsInEveryState := by
  intro i s
  obtain ⟨t, ht⟩ := exec_answers i s
  obtain ⟨hquirks, -⟩ := exec_keeps_configuration ht
  exact ⟨t, ht, hquirks⟩

end Sys2Proof.Machine
end

section

namespace Sys2Proof

/-! ### The rest of the second dispatch level: family 0x8, and the families that fix N = 0 (30_encoding.md R107, R109) -/

theorem decode_orReg {w : Word} (hF : fieldF w = 0x8#4) (hN : fieldN w = 0x1#4) :
    decode w = .op (.orReg (fieldX w) (fieldY w)) := by simp [decode_family8 hF, decodeFamily8, hN]
theorem decode_andReg {w : Word} (hF : fieldF w = 0x8#4) (hN : fieldN w = 0x2#4) :
    decode w = .op (.andReg (fieldX w) (fieldY w)) := by simp [decode_family8 hF, decodeFamily8, hN]
theorem decode_xorReg {w : Word} (hF : fieldF w = 0x8#4) (hN : fieldN w = 0x3#4) :
    decode w = .op (.xorReg (fieldX w) (fieldY w)) := by simp [decode_family8 hF, decodeFamily8, hN]
theorem decode_addReg {w : Word} (hF : fieldF w = 0x8#4) (hN : fieldN w = 0x4#4) :
    decode w = .op (.addReg (fieldX w) (fieldY w)) := by simp [decode_family8 hF, decodeFamily8, hN]
theorem decode_subReg {w : Word} (hF : fieldF w = 0x8#4) (hN : fieldN w = 0x5#4) :
    decode w = .op (.subReg (fieldX w) (fieldY w)) := by simp [decode_family8 hF, decodeFamily8, hN]
theorem decode_shrReg {w : Word} (hF : fieldF w = 0x8#4) (hN : fieldN w = 0x6#4) :
    decode w = .op (.shrReg (fieldX w) (fieldY w)) := by simp [decode_family8 hF, decodeFamily8, hN]
theorem decode_subnReg {w : Word} (hF : fieldF w = 0x8#4) (hN : fieldN w = 0x7#4) :
    decode w = .op (.subnReg (fieldX w) (fieldY w)) := by simp [decode_family8 hF, decodeFamily8, hN]
theorem decode_shlReg {w : Word} (hF : fieldF w = 0x8#4) (hN : fieldN w = 0xE#4) :
    decode w = .op (.shlReg (fieldX w) (fieldY w)) := by simp [decode_family8 hF, decodeFamily8, hN]

theorem decode_seReg {w : Word} (hF : fieldF w = 0x5#4) (hN : fieldN w = 0x0#4) :
    decode w = .op (.seReg (fieldX w) (fieldY w)) := by rw [decode_family5 hF, decodeIfN0, if_pos hN]
theorem decode_sneReg {w : Word} (hF : fieldF w = 0x9#4) (hN : fieldN w = 0x0#4) :
    decode w = .op (.sneReg (fieldX w) (fieldY w)) := by rw [decode_family9 hF, decodeIfN0, if_pos hN]

theorem decode_wordXYN {b : Word} {op : Nibble → Nibble → Nibble → Instr} (x y n : Nibble) (hb : b &&& 0x0FFF#16 = 0#16)
    (hsel : ∀ {w : Word}, fieldF w = fieldF b → decode w = .op (op (fieldX w) (fieldY w) (fieldN w))) :
    decode (wordXYN b x y n) = .op (op x y n) := by
  rw [hsel (fieldF_wordXYN b x y n), fieldX_wordXYN x y n hb, fieldY_wordXYN x y n hb, fieldN_wordXYN x y n hb]

/-- Row by row: the format's lemma gives every operand back, the row's lemma of the dispatch selects the operation. -/
theorem decode_encode (i : Instr) : decode (encode i) = .op i := by
  cases i with
  | cls | ret => exact decode_family0 rfl
  | jp nnn => exact decode_wordNNN nnn rfl decode_family1
  | call nnn => exact decode_wordNNN nnn rfl decode_family2
  | seImm x nn => exact decode_wordXNN x nn rfl decode_family3
  | sneImm x nn => exact decode_wordXNN x nn rfl decode_family4
  | seReg x y => exact decode_wordXY x y rfl decode_seReg
  | ldImm x nn => exact decode_wordXNN x nn rfl decode_family6
  | addImm x nn => exact decode_wordXNN x nn rfl decode_family7
  | ldReg x y => exact decode_wordXY x y rfl decode_ldReg
  | orReg x y => exact decode_wordXY x y rfl decode_orReg
  | andReg x y => exact decode_wordXY x y rfl decode_andReg
  | xorReg x y => exact decode_wordXY x y rfl decode_xorReg
  | addReg x y => exact decode_wordXY x y rfl decode_addReg
  | subReg x y => exact decode_wordXY x y rfl decode_subReg
  | shrReg x y => exact decode_wordXY x y rfl decode_shrReg
  | subnReg x y => exact decode_wordXY x y rfl decode_subnReg
  | shlReg x y => exact decode_wordXY x y rfl decode_shlReg
  | sneReg x y => exact decode_wordXY x y rfl decode_sneReg
  | ldI nnn => exact decode_wordNNN nnn rfl decode_familyA
  | jpV0 nnn => exact decode_wordNNN nnn rfl decode_familyB
  | rnd x nn => exact decode_wordXNN x nn rfl decode_familyC
  | drw x y n => exact decode_wordXYN x y n rfl decode_familyD
  | skp x => exact decode_wordX x rfl decode_skp
  | sknp x => exact decode_wordX x rfl decode_sknp
  | ldVxDt x => exact decode_wordX x rfl decode_ldVxDt
  | ldVxK x => exact decode_wordX x rfl decode_ldVxK
  | ldDtVx x => exact decode_wordX x rfl decode_ldDtVx
  | ldStVx x => exact decode_wordX x rfl decode_ldStVx
  | addI x => exact decode_wordX x rfl decode_addI
  | ldF x => exact decode_wordX x rfl decode_ldF
  | ldB x => exact decode_wordX x rfl decode_ldB
  | storeRegs x => exact decode_wordX x rfl decode_storeRegs
  | loadRegs x => exact decode_wordX x rfl decode_loadRegs

/-! ### A decoded word lies in its instruction's row (30_encoding.md R111) -/

theorem mask_of_family {w m : Word} {f : Nibble} (hF : fieldF w = f) (hm : f.setWidth 16 <<< 12 = m) :
    w &&& 0xF000#16 = m := by
  rw [and_mask_family, hF, hm]

theorem mask_of_family_N {w m : Word} {f n : Nibble} (hF : fieldF w = f) (hN : fieldN w = n)
    (hm : f.setWidth 16 <<< 12 ||| n.setWidth 16 = m) : w &&& 0xF00F#16 = m := by
  rw [and_mask_family_N, hF, hN, hm]

theorem mask_of_family_NN {w m : Word} {f : Nibble} {nn : Byte} (hF : fieldF w = f) (hNN : fieldNN w = nn)
    (hm : f.setWidth 16 <<< 12 ||| nn.setWidth 16 = m) : w &&& 0xF0FF#16 = m := by
  rw [and_mask_family_NN, hF, hNN, hm]

/-- The word `w` is one that the row of `i` selects. -/
def Instr.RowSelects (i : Instr) (w : Word) : Prop := w &&& i.row.mask = i.row.matchBits

theorem rowSelects_of_decodeFamily0 {w : Word} {i : Instr} (h : decodeFamily0 w = .op i) : i.RowSelects w := by
  unfold decodeFamily0 at h
  split_ifs at h with h0 h0 <;> cases h <;> subst h0 <;> rfl

theorem of_decodeIfN0 {w : Word} {i j : Instr} (h : decodeIfN0 w j = .op i) : fieldN w = 0x0#4 ∧ j = i := by
  unfold decodeIfN0 at h
  split_ifs at h with hN
  exact ⟨hN, by injection h⟩

/-- The branch taken fixes N, and with it all the bits of the row's mask. -/
theorem rowSelects_of_decodeFamily8 {w : Word} {i : Instr} (hF : fieldF w = 0x8#4) (h : decodeFamily8 w = .op i) :
    i.RowSelects w := by
  simp only [decodeFamily8] at h
  iterate 9
    split at h
    · next hN => cases h; exact mask_of_family_N hF hN rfl
  cases h

/-- As for family 0x8, with NN in the place of N. -/
theorem rowSelects_of_decodeFamilyE {w : Word} {i : Instr} (hF : fieldF w = 0xE#4) (h : decodeFamilyE w = .op i) :
    i.RowSelects w := by
  simp only [decodeFamilyE] at h
  iterate 2
    split at h
    · next hNN => cases h; exact mask_of_family_NN hF hNN rfl
  cases h

theorem rowSelects_of_decodeFamilyF {w : Word} {i : Instr} (hF : fieldF w = 0xF#4) (h : decodeFamilyF w = .op i) :
    i.RowSelects w := by
  simp only [decodeFamilyF] at h
  iterate 9
    split at h
    · next hNN => cases h; exact mask_of_family_NN hF hNN rfl
  cases h

theorem fieldF_cases (w : Word) : fieldF w = 0x0#4 ∨ fieldF w = 0x1#4 ∨ fieldF w = 0x2#4 ∨ fieldF w = 0x3#4 ∨
    fieldF w = 0x4#4 ∨ fieldF w = 0x5#4 ∨ fieldF w = 0x6#4 ∨ fieldF w = 0x7#4 ∨ fieldF w = 0x8#4 ∨ fieldF w = 0x9#4 ∨
    fieldF w = 0xA#4 ∨ fieldF w = 0xB#4 ∨ fieldF w = 0xC#4 ∨ fieldF w = 0xD#4 ∨ fieldF w = 0xE#4 ∨ fieldF w = 0xF#4 := by
  generalize fieldF w = f
  revert f
  decide

/-- Family by family: the family's mask where it alone selects the instruction, else the second level's. -/
theorem rowSelects_of_decode {w : Word} {i : Instr} (h : decode w = .op i) : i.RowSelects w := by
  rcases fieldF_cases w with hF | hF | hF | hF | hF | hF | hF | hF | hF | hF | hF | hF | hF | hF | hF | hF
  · exact rowSelects_of_decodeFamily0 ((decode_family0 hF).symm.trans h)
  · cases (decode_family1 hF).symm.trans h; exact mask_of_family hF rfl
  · cases (decode_family2 hF).symm.trans h; exact mask_of_family hF rfl
  · cases (decode_family3 hF).symm.trans h; exact mask_of_family hF rfl
  · cases (decode_family4 hF).symm.trans h; exact mask_of_family hF rfl
  · obtain ⟨hN, rfl⟩ := of_decodeIfN0 ((decode_family5 hF).symm.trans h)
    exact mask_of_family_N hF hN rfl
  · cases (decode_family6 hF).symm.trans h; exact mask_of_family hF rfl
  · cases (decode_family7 hF).symm.trans h; exact mask_of_family hF rfl
  · exact rowSelects_of_decodeFamily8 hF ((decode_family8 hF).symm.trans h)
  · obtain ⟨hN, rfl⟩ := of_decodeIfN0 ((decode_family9 hF).symm.trans h)
    exact mask_of_family_N hF hN rfl
  · cases (decode_familyA hF).symm.trans h; exact mask_of_family hF rfl
  · cases (decode_familyB hF).symm.trans h; exact mask_of_family hF rfl
  · cases (decode_familyC hF).symm.trans h; exact mask_of_family hF rfl
  · cases (decode_familyD hF).symm.trans h; exact mask_of_family hF rfl
  · exact rowSelects_of_decodeFamilyE hF ((decode_familyE hF).symm.trans h)
  · exact rowSelects_of_decodeFamilyF hF ((decode_familyF hF).symm.trans h)

/-! ### A word that a row selects is the row's word with operands read from it -/

/-- The instruction of the row of `i` whose operands are the fields of `w` (30_encoding.md R101). -/
def Instr.withFieldsOf (w : Word) : Instr → Instr
  | .cls => .cls
  | .ret => .ret
  | .jp _ => .jp (fieldNNN w)
  | .call _ => .call (fieldNNN w)
  | .seImm _ _ => .seImm (fieldX w) (fieldNN w)
  | .sneImm _ _ => .sneImm (fieldX w) (fieldNN w)
  | .seReg _ _ => .seReg (fieldX w) (fieldY w)
  | .ldImm _ _ => .ldImm (fieldX w) (fieldNN w)
  | .addImm _ _ => .addImm (fieldX w) (fieldNN w)
  | .ldReg _ _ => .ldReg (fieldX w) (fieldY w)
  | .orReg _ _ => .orReg (fieldX w) (fieldY w)
  | .andReg _ _ => .andReg (fieldX w) (fieldY w)
  | .xorReg _ _ => .xorReg (fieldX w) (fieldY w)
  | .addReg _ _ => .addReg (fieldX w) (fieldY w)
  | .subReg _ _ => .subReg (fieldX w) (fieldY w)
  | .shrReg _ _ => .shrReg (fieldX w) (fieldY w)
  | .subnReg _ _ => .subnReg (fieldX w) (fieldY w)
  | .shlReg _ _ => .shlReg (fieldX w) (fieldY w)
  | .sneReg _ _ => .sneReg (fieldX w) (fieldY w)
  | .ldI _ => .ldI (fieldNNN w)
  | .jpV0 _ => .jpV0 (fieldNNN w)
  | .rnd _ _ => .rnd (fieldX w) (fieldNN w)
  | .drw _ _ _ => .drw (fieldX w) (fieldY w) (fieldN w)
  | .skp _ => .skp (fieldX w)
  | .sknp _ => .sknp (fieldX w)
  | .ldVxDt _ => .ldVxDt (fieldX w)
  | .ldVxK _ => .ldVxK (fieldX w)
  | .ldDtVx _ => .ldDtVx (fieldX w)
  | .ldStVx _ => .ldStVx (fieldX w)
  | .addI _ => .addI (fieldX w)
  | .ldF _ => .ldF (fieldX w)
  | .ldB _ => .ldB (fieldX w)
  | .storeRegs _ => .storeRegs (fieldX w)
  | .loadRegs _ => .loadRegs (fieldX w)

theorem Instr.withFieldsOf_row (w : Word) (i : Instr) : (i.withFieldsOf w).row = i.row := by cases i <;> rfl

/-- By format: the masked bits are the row's base word, and the fields cover all the other bits (`wordXNN_fields` and its
like). -/
theorem encode_withFieldsOf {w : Word} {i : Instr} (h : i.RowSelects w) : encode (i.withFieldsOf w) = w := by
  cases i with
  | cls | ret => exact ((BitVec.and_allOnes (x := w)).symm.trans h).symm
  | jp | call | ldI | jpV0 => exact (congrArg (wordNNN · (fieldNNN w)) h.symm).trans (wordNNN_fields w)
  | seImm | sneImm | ldImm | addImm | rnd =>
    exact (congrArg (wordXNN · (fieldX w) (fieldNN w)) h.symm).trans (wordXNN_fields w)
  | seReg | sneReg | ldReg | orReg | andReg | xorReg | addReg | subReg | shrReg | subnReg | shlReg =>
    exact (congrArg (wordXY · (fieldX w) (fieldY w)) h.symm).trans (wordXY_fields w)
  | drw => exact (congrArg (wordXYN · (fieldX w) (fieldY w) (fieldN w)) h.symm).trans (wordXYN_fields w)
  | skp | sknp | ldVxDt | ldVxK | ldDtVx | ldStVx | addI | ldF | ldB | storeRegs | loadRegs =>
    exact (congrArg (wordX · (fieldX w)) h.symm).trans (wordX_fields w)

/-- The word is the encoded word of that instruction, so `decode_encode` decodes it. -/
theorem decode_of_rowSelects {w : Word} {i : Instr} (h : i.RowSelects w) : decode w = .op (i.withFieldsOf w) := by
  rw [← decode_encode (i.withFieldsOf w), encode_withFieldsOf h]

/-- A decoded instruction's operands are the word's fields, so its word is the one decoded. -/
theorem encode_of_decode {w : Word} {i : Instr} (h : decode w = .op i) : encode i = w := by
  have hrow := rowSelects_of_decode h
  have hi : i = i.withFieldsOf w := by
    have := h.symm.trans (decode_of_rowSelects hrow)
    injection this
  rw [hi, encode_withFieldsOf hrow]

/-! ### The legal words (30_encoding.md R112) -/

theorem decodeFamily0_accepts {w : Word} : (∃ i, decodeFamily0 w = .op i) ↔ w = 0x00E0#16 ∨ w = 0x00EE#16 := by
  unfold decodeFamily0
  split_ifs <;> simp [*]

theorem decodeIfN0_accepts {w : Word} {j : Instr} : (∃ i, decodeIfN0 w j = .op i) ↔ w.toNat % 0x10 = 0 := by
  simp only [decodeIfN0, fieldN_eq_iff]
  split_ifs with hN <;> simpa using hN

/-- The seven low nibbles that no row of family 0x8 has. -/
theorem decodeFamily8_accepts {w : Word} :
    (∃ i, decodeFamily8 w = .op i) ↔ w.toNat % 0x10 ∉ [0x8, 0x9, 0xA, 0xB, 0xC, 0xD, 0xF] := by
  simp only [decodeFamily8, fieldN_eq_iff]
  have hn : w.toNat % 0x10 < 16 := Nat.mod_lt _ (by decide)
  interval_cases w.toNat % 0x10 <;> simp

theorem decode_familyE_accepts {w : Word} (hF : fieldF w = 0xE#4) :
    (∃ i, decode w = .op i) ↔ w.toNat % 0x100 ∈ [0x9E, 0xA1] := by
  have hNN := fieldNN_eq_iff w
  constructor
  · rintro ⟨i, hd⟩
    by_contra hunlisted
    cases (decode_familyE_unlisted hF hunlisted).symm.trans hd
  · simp only [List.mem_cons, List.not_mem_nil, or_false]
    rintro (h | h)
    · exact ⟨_, decode_skp hF ((hNN _).mpr h)⟩
    · exact ⟨_, decode_sknp hF ((hNN _).mpr h)⟩

theorem decode_familyF_accepts {w : Word} (hF : fieldF w = 0xF#4) : (∃ i, decode w = .op i) ↔
    w.toNat % 0x100 ∈ [0x07, 0x0A, 0x15, 0x18, 0x1E, 0x29, 0x33, 0x55, 0x65] := by
  have hNN := fieldNN_eq_iff w
  constructor
  · rintro ⟨i, hd⟩
    by_contra hunlisted
    cases (decode_familyF_unlisted hF hunlisted).symm.trans hd
  · simp only [List.mem_cons, List.not_mem_nil, or_false]
    rintro (h | h | h | h | h | h | h | h | h)
    · exact ⟨_, decode_ldVxDt hF ((hNN _).mpr h)⟩
    · exact ⟨_, decode_ldVxK hF ((hNN _).mpr h)⟩
    · exact ⟨_, decode_ldDtVx hF ((hNN _).mpr h)⟩
    · exact ⟨_, decode_ldStVx hF ((hNN _).mpr h)⟩
    · exact ⟨_, decode_addI hF ((hNN _).mpr h)⟩
    · exact ⟨_, decode_ldF hF ((hNN _).mpr h)⟩
    · exact ⟨_, decode_ldB hF ((hNN _).mpr h)⟩
    · exact ⟨_, decode_storeRegs hF ((hNN _).mpr h)⟩
    · exact ⟨_, decode_loadRegs hF ((hNN _).mpr h)⟩

/-- Family by family: where the family alone selects the instruction every word is legal; in the others the second level
accepts what the list of illegal words leaves. -/
theorem decode_accepts_iff_legalWord (w : Word) : (∃ i, decode w = .op i) ↔ legalWord w = true := by
  have hlt := family_cases w
  have hF := fieldF_eq_iff w
  unfold legalWord
  interval_cases w.toNat / 0x1000
  · rw [decode_family0 ((hF _).mpr rfl), decodeFamily0_accepts]; simp
  · simp [decode_family1 ((hF _).mpr rfl)]
  · simp [decode_family2 ((hF _).mpr rfl)]
  · simp [decode_family3 ((hF _).mpr rfl)]
  · simp [decode_family4 ((hF _).mpr rfl)]
  · rw [decode_family5 ((hF _).mpr rfl), decodeIfN0_accepts]; simp
  · simp [decode_family6 ((hF _).mpr rfl)]
  · simp [decode_family7 ((hF _).mpr rfl)]
  · rw [decode_family8 ((hF _).mpr rfl), decodeFamily8_accepts]; simp
  · rw [decode_family9 ((hF _).mpr rfl), decodeIfN0_accepts]; simp
  · simp [decode_familyA ((hF _).mpr rfl)]
  · simp [decode_familyB ((hF _).mpr rfl)]
  · simp [decode_familyC ((hF _).mpr rfl)]
  · simp [decode_familyD ((hF _).mpr rfl)]
  · rw [decode_familyE_accepts ((hF _).mpr rfl)]; simp
  · rw [decode_familyF_accepts ((hF _).mpr rfl)]; simp

theorem decode_of_illegal {w : Word} (h : legalWord w = false) : decode w = .unknownOpcode := by
  cases hd : decode w with
  | unknownOpcode => rfl
  | op i =>
    have := (decode_accepts_iff_legalWord w).mp ⟨i, hd⟩
    simp [h] at this

end Sys2Proof

namespace Sys2Proof.Machine

/-- Settles O6: see `decode_encode`. -/
theorem decodeInvertsEncode : Obligations.DecodeInvertsEncode := decode_encode

/-- Settles O7: see `encode_of_decode`; that the rows of families 0x0, 0x5 and 0x9 fix every bit without a field is decision
D14. -/
theorem encodeInvertsDecode : Obligations.EncodeInvertsDecode := fun _ _ => encode_of_decode

/-- Settles O4: see `decode_accepts_iff_legalWord`. -/
theorem decoderAcceptsExactlyTheLegalWords : Obligations.DecoderAcceptsExactlyTheLegalWords := decode_accepts_iff_legalWord

/-- Settles O5: both directions are about the row of an instruction (`rowSelects_of_decode`, `decode_of_rowSelects`); the
map itself is a closed table. -/
theorem decoderFollowsTheOpcodeMap : Obligations.DecoderFollowsTheOpcodeMap := by
  refine ⟨fun _ _ => rowSelects_of_decode, fun r hr w hw => ?_, rfl, by decide⟩
  obtain ⟨i, -, rfl⟩ := List.mem_map.mp hr
  exact ⟨i.withFieldsOf w, decode_of_rowSelects hw, i.withFieldsOf_row w⟩

/-- Settles O9: each legal word is the encoded word of its instruction (`decode_encode`), and the others are on the list of
illegal words (`decode_of_illegal`). -/
theorem sampleWordsDecodeAsTheSpecSays : Obligations.SampleWordsDecodeAsTheSpecSays :=
  ⟨decode_encode .cls, decode_encode .ret, decode_encode (.jp 0x228#12), decode_encode (.ldImm 0xA#4 0x42#8),
    decode_encode (.shlReg 0x1#4 0x2#4), decode_encode (.ldI 0x2F0#12), decode_encode (.drw 0x1#4 0x2#4 0x5#4),
    decode_encode (.skp 0x4#4), decode_encode (.ldB 0x5#4), decode_of_illegal rfl, decode_of_illegal rfl,
    decode_of_illegal rfl, decode_of_illegal rfl, decode_of_illegal rfl, decode_of_illegal rfl⟩

end Sys2Proof.Machine
end

section

namespace Sys2Proof.Machine

/-! ### What an instruction can do

One case analysis over the 34 instructions; the statements about which instruction may change which field, and the invariant,
go through its cases. -/

/-- The effects of an instruction `i` in the state `s`, by the fields it may change. The instruction is named where the field
has its own instructions; that registers and pc change says nothing about which. -/
inductive Effect (s : State) : Instr → State → Prop where
  | registers {i : Instr} (v : RegFile) (pc : Word) : Effect s i { s with v := v, pc := pc }
  | index {i : Instr} (hi : (∃ nnn, i = .ldI nnn) ∨ ∃ x, i = .addI x ∨ i = .ldF x) (v : RegFile) (idx : Word) :
      Effect s i { s with v := v, idx := idx }
  | load (x : Nibble) (v : RegFile) : Effect s (.loadRegs x) { s with v := v, idx := s.indexAfterTransfer x }
  | store (x : Nibble) (addr : Nat) (bs : List Byte) :
      Effect s (.storeRegs x) { s with mem := s.mem.writeList addr bs, idx := s.indexAfterTransfer x }
  | bcd (x : Nibble) (addr : Nat) (bs : List Byte) : Effect s (.ldB x) { s with mem := s.mem.writeList addr bs }
  | display {i : Instr} (hi : i = .cls ∨ ∃ x y n, i = .drw x y n) (v : RegFile) (fb : Frame) :
      Effect s i { s with v := v, fb := fb, published := fb :: s.published }
  | delayTimer (x : Nibble) (b : Byte) : Effect s (.ldDtVx x) { s with dt := b }
  | soundTimer (x : Nibble) (b : Byte) : Effect s (.ldStVx x) { s with st := b }
  | push (nnn : Imm12) (hroom : s.params.stackDepth ≠ some s.stack.length) :
      Effect s (.call nnn) { s with pc := addressOf nnn, stack := s.pc :: s.stack }
  | pop {a : Word} {rest : List Word} (hs : s.stack = a :: rest) : Effect s .ret { s with pc := a, stack := rest }
  | overflow (nnn : Imm12) (hfull : s.params.stackDepth = some s.stack.length) :
      Effect s (.call nnn) (s.raise .stackOverflow)
  | underflow (hs : s.stack = []) : Effect s .ret (s.raise .stackUnderflow)

theorem Effect.skipIf (s : State) (i : Instr) (c : Bool) : Effect s i (s.skipIf c) := by
  rw [State.skipIf_eq]
  exact .registers s.v _

theorem Effect.setReg (s : State) (i : Instr) (x : Nibble) (b : Byte) : Effect s i (s.setReg x b) :=
  .registers (s.setReg x b).v s.pc

theorem Effect.setRegFlag (s : State) (i : Instr) (x : Nibble) (b : Byte) (f : Bool) : Effect s i (s.setRegFlag x b f) :=
  .registers (s.setRegFlag x b f).v s.pc

theorem Effect.loadFirstRegs (s : State) (x : Nibble) (addr n : Nat) :
    Effect s (.loadRegs x) ((s.loadFirstRegs addr n).setIdx (s.indexAfterTransfer x)) := by
  rw [State.loadFirstRegs_eq]
  exact .load x _

theorem exec_effect {i : Instr} {s t : State} (h : exec i s = .next t) : Effect s i t := by
  cases i with
  | ret =>
    rcases execRet_cases h with ⟨hs, rfl⟩ | ⟨a, rest, hs, rfl⟩
    · exact .underflow hs
    · exact .pop hs
  | call nnn =>
    rcases execCall_cases h with ⟨hfull, rfl⟩ | ⟨hroom, rfl⟩
    · exact .overflow nnn hfull
    · exact .push nnn hroom
  | ldVxK x =>
    rcases execLdVxK_cases h with ⟨-, rfl⟩ | ⟨k, ks, -, rfl⟩
    · exact .registers s.v _
    · exact .setReg s _ x _
  | addI x =>
    rcases execAddI_cases h with ⟨-, rfl⟩ | ⟨-, rfl⟩
    · exact .index (.inr ⟨x, .inl rfl⟩) s.v _
    · exact .index (.inr ⟨x, .inl rfl⟩) (State.setFlag _ _).v _
  | seImm | sneImm | seReg | sneReg | skp | sknp => cases h; exact .skipIf s _ _
  | ldImm | addImm | ldReg | orReg | andReg | xorReg | rnd | ldVxDt => cases h; exact .setReg s _ _ _
  | addReg | subReg | shrReg | subnReg | shlReg => cases h; exact .setRegFlag s _ _ _ _
  | jp | jpV0 => cases h; exact .registers s.v _
  | ldI nnn => cases h; exact .index (.inl ⟨nnn, rfl⟩) s.v _
  | ldF x => cases h; exact .index (.inr ⟨x, .inr rfl⟩) s.v _
  | cls => cases h; exact .display (.inl rfl) s.v _
  | drw x y n => cases h; exact .display (.inr ⟨x, y, n, rfl⟩) (State.setFlag _ _).v _
  | ldDtVx x => cases h; exact .delayTimer x _
  | ldStVx x => cases h; exact .soundTimer x _
  | ldB x => cases h; exact .bcd x _ _
  | storeRegs x => cases h; exact .store x _ _
  | loadRegs x => cases h; exact .loadFirstRegs s x _ _

/-! ### The invariant (10_state.md R44, R49; 20_memory.md R70; 60_exceptions.md R313) -/

/-- Without a fault record the two clauses about it hold of themselves. -/
theorem State.inv_of_no_fault {s : State} (hmem : Memory.wf s.mem = true) (hparams : s.params.wellFormed = true)
    (hstack : ∀ d, s.params.stackDepth = some d → s.stack.length ≤ d) (hfault : s.fault = none) : s.Inv where
  memory := hmem
  params := hparams
  stack := hstack
  runningNoFault _ := hfault
  precise r hr := by rw [hfault] at hr; cases hr

theorem State.Inv.nextInput {s : State} (h : s.Inv) : s.nextInput.Inv :=
  ⟨h.memory, h.params, h.stack, h.runningNoFault, h.precise⟩

theorem State.Inv.timerStep {s : State} (h : s.Inv) : s.timerStep.Inv :=
  ⟨h.memory, h.params, h.stack, h.runningNoFault, h.precise⟩

theorem State.Inv.cancel {s : State} (h : s.Inv) : s.cancel.Inv :=
  ⟨h.memory, h.params, h.stack, nofun, h.precise⟩

/-- A running machine has no record, so the fetch may move pc and IR. -/
theorem State.Inv.fetch {s : State} (h : s.Inv) (hr : s.runState = .running) : s.fetch.Inv :=
  State.inv_of_no_fault h.memory h.params h.stack (h.runningNoFault hr)

/-- Right after a fetch a fault is precise: the record takes IR and pc_fetch, and pc is 2 beyond (R313). -/
theorem State.Inv.raise {s : State} (h : s.Inv) (hpc : s.pc = s.pcFetch + 2#16) (c : FaultCause) : (s.raise c).Inv :=
  ⟨h.memory, h.params, h.stack, nofun, fun r hr => by cases hr; exact ⟨rfl, hpc⟩⟩

/-- An instruction right after its fetch keeps the invariant: a store keeps memory canonical, a push needs room, a fault is
precise, and no other effect touches what the invariant speaks of. -/
theorem State.Inv.exec {i : Instr} {s t : State} (h : s.Inv) (hfault : s.fault = none) (hpc : s.pc = s.pcFetch + 2#16)
    (hx : exec i s = .next t) : t.Inv := by
  cases exec_effect hx with
  | registers | index | load | display | delayTimer | soundTimer =>
    exact State.inv_of_no_fault h.memory h.params h.stack hfault
  | store x addr bs => exact State.inv_of_no_fault (Memory.wf_writeList h.memory addr bs) h.params h.stack hfault
  | bcd x addr bs => exact State.inv_of_no_fault (Memory.wf_writeList h.memory addr bs) h.params h.stack hfault
  | push nnn hroom =>
    refine State.inv_of_no_fault h.memory h.params (fun d hd => ?_) hfault
    have hle : s.stack.length ≤ d := h.stack d hd
    have hne : s.stack.length ≠ d := fun e => hroom (e ▸ hd)
    exact Nat.lt_of_le_of_ne hle hne
  | pop hs =>
    refine State.inv_of_no_fault h.memory h.params (fun d hd => ?_) hfault
    have hle := h.stack d hd
    rw [hs, List.length_cons] at hle
    exact Nat.le_of_succ_le hle
  | overflow | underflow => exact h.raise hpc _

theorem State.Inv.step {s t : State} (h : s.Inv) (hstep : step s = .next t) : t.Inv := by
  obtain ⟨hr, ⟨-, i, u, -, hx, rfl⟩ | ⟨-, -, rfl⟩ | ⟨-, rfl⟩ | ⟨-, rfl⟩⟩ := step_cases hstep
  · exact ((h.fetch hr).exec (h.runningNoFault hr) rfl hx).nextInput
  · exact ((h.fetch hr).raise rfl _).nextInput
  · exact h.timerStep.nextInput
  · exact h.cancel.nextInput

/-- Settles O59: the trigger's cases (`step_cases`), each of which keeps the invariant; for an instruction by its effect
(`exec_effect`). -/
theorem everyStepKeepsTheInvariant : Obligations.EveryStepKeepsTheInvariant := fun _ _ h hstep => h.step hstep

theorem construct_inv {b : Build} {s : State} (h : construct b = .next s) : s.Inv := by
  have hmem := construct_wf h
  obtain ⟨hparams, -, rfl⟩ := construct_cases h
  exact State.inv_of_no_fault hmem hparams (fun _ _ => Nat.zero_le _) rfl

/-- Settles O58: see `State.inv_of_no_fault`; nothing is listed in memory and the stack is empty. -/
theorem resetMeetsTheInvariant : Obligations.ResetMeetsTheInvariant :=
  State.inv_of_no_fault rfl rfl (fun _ _ => Nat.zero_le _) rfl

/-- The boundary's inputs are no part of the invariant, so construction with any inputs starts in it. -/
theorem Reachable.inv {s : State} (h : Reachable s) : s.Inv := by
  induction h with
  | start b s inputs hb =>
    have hs := construct_inv hb
    exact ⟨hs.memory, hs.params, hs.stack, hs.runningNoFault, hs.precise⟩
  | step s t _ hstep ih => exact ih.step hstep

/-- Settles O60: the invariant by induction over the run (`Reachable.inv`); a record excludes Running by the invariant. -/
theorem reachableStatesMeetTheInvariant : Obligations.ReachableStatesMeetTheInvariant := fun s h =>
  ⟨h.inv, fun hunsafe => (RunState.eq_running_or_eq_stopped s.runState).resolve_left fun hr =>
    hunsafe (h.inv.runningNoFault hr)⟩

end Sys2Proof.Machine
end

section

namespace Sys2Proof.Machine

/-! ### Which instruction changes which field, from the effects -/

/-- I moves on a transfer only under the quirk (10_state.md R40). -/
theorem State.indexAfterTransfer_changes {s : State} {x : Nibble} (h : s.indexAfterTransfer x ≠ s.idx) :
    s.quirks.incrementIndexRegisterOnLoadSave = true := by
  by_contra hq
  exact h (if_neg hq)

/-- Settles O47: the effects that write I, by `exec_effect`. -/
theorem onlyIndexInstructionsWriteI : Obligations.OnlyIndexInstructionsWriteI := by
  intro i s t hx hidx
  cases exec_effect hx with
  | index hi => exact hi.imp_right .inl
  | load x => exact .inr (.inr ⟨State.indexAfterTransfer_changes hidx, x, .inr rfl⟩)
  | store x => exact .inr (.inr ⟨State.indexAfterTransfer_changes hidx, x, .inl rfl⟩)
  | _ => exact absurd rfl hidx

/-- Settles O48: the effects that write the stack or memory, by `exec_effect`; a fault writes neither. -/
theorem stackAndMemoryHaveTheirOwnInstructions : Obligations.StackAndMemoryHaveTheirOwnInstructions := by
  intro i s t hx
  cases exec_effect hx with
  | store x => exact ⟨absurd rfl, fun _ => ⟨x, .inr rfl⟩⟩
  | bcd x => exact ⟨absurd rfl, fun _ => ⟨x, .inl rfl⟩⟩
  | push nnn => exact ⟨fun _ => .inr ⟨nnn, rfl⟩, absurd rfl⟩
  | pop => exact ⟨fun _ => .inl rfl, absurd rfl⟩
  | _ => exact ⟨absurd rfl, absurd rfl⟩

/-- Both display instructions hand the buffer over after writing it. -/
theorem exec_publishes {i : Instr} {s t : State} (hi : i = .cls ∨ ∃ x y n, i = .drw x y n) (hx : exec i s = .next t) :
    t.published = t.fb :: s.published := by
  rcases hi with rfl | ⟨x, y, n, rfl⟩ <;> cases hx <;> rfl

/-- Settles O49: the effects that write the display or a timer, by `exec_effect`; no instruction writes the tone
(`exec_keeps`). -/
theorem displayAndTimersHaveTheirOwnInstructions : Obligations.DisplayAndTimersHaveTheirOwnInstructions := by
  intro i s t hx
  obtain ⟨-, -, htone, -, -⟩ := exec_keeps hx
  refine ⟨fun hi => exec_publishes hi hx, ?_⟩
  cases exec_effect hx with
  | display hi => exact ⟨absurd hi, absurd rfl, absurd rfl, htone⟩
  | delayTimer x => exact ⟨fun _ => ⟨rfl, rfl⟩, fun _ => ⟨x, rfl⟩, absurd rfl, htone⟩
  | soundTimer x => exact ⟨fun _ => ⟨rfl, rfl⟩, absurd rfl, fun _ => ⟨x, rfl⟩, htone⟩
  | _ => exact ⟨fun _ => ⟨rfl, rfl⟩, absurd rfl, absurd rfl, htone⟩

/-- Settles O53: the two effects that take a fault, by `exec_effect`; each writes the record and the run state only. -/
theorem faultsArePreciseAndSingle : Obligations.FaultsArePreciseAndSingle := by
  intro i s t hx hchange
  cases exec_effect hx with
  | underflow hs => exact .inl ⟨rfl, hs, rfl⟩
  | overflow nnn hfull => exact .inr ⟨⟨nnn, rfl⟩, hfull, rfl⟩
  | _ => exact absurd hchange (by simp)

/-! ### Which instruction changes which register (10_state.md R33) -/

theorem State.setReg_changes {s : State} {x r : Nibble} {b : Byte} (h : (s.setReg x b).reg r ≠ s.reg r) : r = x := by
  by_contra hne
  exact h (State.setReg_reg_other s b hne)

theorem State.setRegFlag_changes {s : State} {x r : Nibble} {b : Byte} {f : Bool}
    (h : (s.setRegFlag x b f).reg r ≠ s.reg r) : r = x ∨ r = flagReg := by
  by_contra hne
  obtain ⟨hx, hf⟩ := not_or.mp hne
  exact h (by rw [State.setRegFlag_reg, if_neg hf, if_neg hx])

theorem State.loadFirstRegs_changes {s : State} {addr n : Nat} (hn : n ≤ 16) {r : Nibble}
    (h : (s.loadFirstRegs addr n).reg r ≠ s.reg r) : r.toNat < n := by
  by_contra hr
  exact h (by rw [State.loadFirstRegs_reg s addr hn, if_neg hr])

/-- Settles O46: by instruction. One register write changes its destination, a write with a flag also V[0xF], FX65 the
registers up to X; every other instruction leaves the register file alone. -/
theorem onlyTheListedInstructionsWriteRegisters : Obligations.OnlyTheListedInstructionsWriteRegisters := by
  intro i s t r hx hr
  cases i with
  | ldImm | addImm | ldReg | orReg | andReg | xorReg | rnd | ldVxDt =>
    cases hx
    obtain rfl := State.setReg_changes hr
    simp
  | addReg | subReg | shrReg | subnReg | shlReg =>
    cases hx
    rcases State.setRegFlag_changes hr with rfl | rfl <;> simp [flagReg]
  | ldVxK x =>
    rcases execLdVxK_cases hx with ⟨-, rfl⟩ | ⟨k, ks, -, rfl⟩
    · exact absurd rfl hr
    · obtain rfl := State.setReg_changes hr
      simp
  | addI x =>
    rcases execAddI_cases hx with ⟨-, rfl⟩ | ⟨hq, rfl⟩
    · exact absurd rfl hr
    · obtain rfl : r = flagReg := State.setReg_changes (s := s.setIdx _) hr
      simp [flagReg, hq]
  | drw x y n =>
    cases hx
    obtain rfl : r = flagReg := State.setReg_changes (s := { s with fb := _ }) hr
    simp [flagReg]
  | loadRegs x =>
    cases hx
    have := State.loadFirstRegs_changes x.isLt hr
    simp
    omega
  | seImm | sneImm | seReg | sneReg | skp | sknp => cases hx; exact absurd (State.skipIf_reg s _ r) hr
  | ret => rcases execRet_cases hx with ⟨-, rfl⟩ | ⟨a, rest, -, rfl⟩ <;> exact absurd rfl hr
  | call nnn => rcases execCall_cases hx with ⟨-, rfl⟩ | ⟨-, rfl⟩ <;> exact absurd rfl hr
  | _ => cases hx; exact absurd rfl hr

/-! ### The equations of the instructions that test the state -/

theorem exec_call_full {s : State} (nnn : Imm12) (h : s.params.stackDepth = some s.stack.length) :
    exec (.call nnn) s = .next (s.raise .stackOverflow) := by
  rw [exec, execCall, State.push_full s.pc h]
  rfl

theorem exec_ldVxK_nil {s : State} (x : Nibble) (h : s.pressedKeys = []) :
    exec (.ldVxK x) s = .next (s.setPc (s.pc - 2#16)) := by
  rw [exec, execLdVxK, h]

theorem exec_ldVxK_cons {s : State} (x : Nibble) {k : Nat} {ks : List Nat} (h : s.pressedKeys = k :: ks) :
    exec (.ldVxK x) s = .next (s.setReg x (BitVec.ofNat 8 k)) := by
  rw [exec, execLdVxK, h]

theorem exec_addI_quiet {s : State} (x : Nibble) (h : s.quirks.disableSetFlagOnIrOverflow = true) :
    exec (.addI x) s = .next (s.setIdx (s.idx + (s.reg x).setWidth 16)) := by
  simp only [exec, execAddI, h, if_true]

theorem exec_addI_flag {s : State} (x : Nibble) (h : s.quirks.disableSetFlagOnIrOverflow = false) :
    exec (.addI x) s = .next ((s.setIdx (s.idx + (s.reg x).setWidth 16)).setFlag
      (indexOverflowFlag (s.idx + (s.reg x).setWidth 16))) := by
  simp only [exec, execAddI, h, Bool.false_eq_true, if_false]

/-! ### Timers, tone and inputs as a part of the state that most instructions neither read nor write -/

/-- `s` with other timers, tone and inputs. -/
def State.setOutside (s : State) (dt st : Byte) (tone : Bool) (inputs : List Input) : State :=
  { s with dt := dt, st := st, tone := tone, inputs := inputs }

/-- The instructions that read or write a timer (44_keys_timers.md R284, R286, R287). -/
def UsesTimer (i : Instr) : Prop := ∃ x, i = .ldVxDt x ∨ i = .ldDtVx x ∨ i = .ldStVx x

/-- The instructions that read the boundary's inputs (10_state.md R54). -/
def UsesInputs (i : Instr) : Prop := (∃ x, i = .skp x ∨ i = .sknp x ∨ i = .ldVxK x) ∨ ∃ x nn, i = .rnd x nn

section
variable (s : State) (dt st : Byte) (tone : Bool) (inputs : List Input)

theorem State.setOutside_skipIf (c : Bool) :
    (s.setOutside dt st tone inputs).skipIf c = (s.skipIf c).setOutside dt st tone inputs := by
  cases c <;> rfl

theorem State.setOutside_loadFirstRegs (addr n : Nat) : (s.setOutside dt st tone inputs).loadFirstRegs addr n =
    (s.loadFirstRegs addr n).setOutside dt st tone inputs := by
  induction n with
  | zero => rfl
  | succ n ih => rw [State.loadFirstRegs, ih]; rfl

end

/-- The two timers are the two instructions' own. -/
theorem exec_keeps_timers {i : Instr} {s t : State} (htimer : ¬ UsesTimer i) (hx : exec i s = .next t) :
    t.dt = s.dt ∧ t.st = s.st := by
  cases exec_effect hx with
  | delayTimer x => exact absurd ⟨x, .inr (.inl rfl)⟩ htimer
  | soundTimer x => exact absurd ⟨x, .inr (.inr rfl)⟩ htimer
  | _ => exact ⟨rfl, rfl⟩

/-- By instruction: what an instruction tests or counts depends on the timers and the tone not at all, and on the inputs only
where it is one of the four. -/
theorem exec_setOutside {i : Instr} {s t : State} (htimer : ¬ UsesTimer i) (hx : exec i s = .next t) (dt st : Byte)
    (tone : Bool) {inputs : List Input} (hinputs : UsesInputs i → inputs = s.inputs) :
    exec i (s.setOutside dt st tone inputs) = .next (t.setOutside dt st tone inputs) := by
  cases i with
  | ldVxDt x => exact absurd ⟨x, .inl rfl⟩ htimer
  | ldDtVx x => exact absurd ⟨x, .inr (.inl rfl)⟩ htimer
  | ldStVx x => exact absurd ⟨x, .inr (.inr rfl)⟩ htimer
  | skp x =>
    obtain rfl := hinputs (.inl ⟨x, .inl rfl⟩)
    cases hx
    exact congrArg Host.Outcome.next (State.setOutside_skipIf s dt st tone s.inputs _)
  | sknp x =>
    obtain rfl := hinputs (.inl ⟨x, .inr (.inl rfl)⟩)
    cases hx
    exact congrArg Host.Outcome.next (State.setOutside_skipIf s dt st tone s.inputs _)
  | ldVxK x =>
    obtain rfl := hinputs (.inl ⟨x, .inr (.inr rfl)⟩)
    rcases execLdVxK_cases hx with ⟨hk, rfl⟩ | ⟨k, ks, hk, rfl⟩
    · exact exec_ldVxK_nil (s := s.setOutside dt st tone s.inputs) x hk
    · exact exec_ldVxK_cons (s := s.setOutside dt st tone s.inputs) x hk
  | rnd x nn =>
    obtain rfl := hinputs (.inr ⟨x, nn, rfl⟩)
    cases hx
    rfl
  | seImm | sneImm | seReg | sneReg =>
    cases hx
    exact congrArg Host.Outcome.next (State.setOutside_skipIf s dt st tone inputs _)
  | ret =>
    rcases execRet_cases hx with ⟨hs, rfl⟩ | ⟨a, rest, hs, rfl⟩
    · exact exec_ret_nil (s := s.setOutside dt st tone inputs) hs
    · exact exec_ret_cons (s := s.setOutside dt st tone inputs) hs
  | call nnn =>
    rcases execCall_cases hx with ⟨hfull, rfl⟩ | ⟨hroom, rfl⟩
    · exact exec_call_full (s := s.setOutside dt st tone inputs) nnn hfull
    · exact exec_call_room (s := s.setOutside dt st tone inputs) nnn hroom
  | addI x =>
    rcases execAddI_cases hx with ⟨hq, rfl⟩ | ⟨hq, rfl⟩
    · exact exec_addI_quiet (s := s.setOutside dt st tone inputs) x hq
    · exact exec_addI_flag (s := s.setOutside dt st tone inputs) x hq
  | loadRegs x =>
    cases hx
    rw [exec, execLoadRegs, State.setOutside_loadFirstRegs]
    rfl
  | _ => cases hx; rfl

/-- Settles O50: ST is outside what `exec` reads (`exec_setOutside`); FX07, FX15 and FX18 do not read it either, and FX18
overwrites it. -/
theorem noInstructionReadsTheSoundTimer : Obligations.NoInstructionReadsTheSoundTimer := by
  intro i s t b hx
  by_cases htimer : UsesTimer i
  · obtain ⟨x, rfl | rfl | rfl⟩ := htimer <;> cases hx <;> exact ⟨_, rfl, rfl⟩
  · obtain ⟨-, -, htone, hinputs, -⟩ := exec_keeps hx
    obtain ⟨hdt, -⟩ := exec_keeps_timers htimer hx
    refine ⟨_, exec_setOutside htimer hx s.dt b s.tone fun _ => rfl, ?_⟩
    rw [← hdt, ← htone, ← hinputs]
    rfl

/-- Settles O51: for an instruction that is none of the four the inputs are outside what `exec` reads (`exec_setOutside`);
the timer instructions are immediate. -/
theorem onlyFourInstructionsUseTheInputs : Obligations.OnlyFourInstructionsUseTheInputs := by
  intro i s t l hkeys hrnd hx
  have hnot : ¬ UsesInputs i := by
    rintro (⟨x, hi⟩ | ⟨x, nn, hi⟩)
    · obtain ⟨hskp, hsknp, hwait⟩ := hkeys x
      exact hi.elim hskp (·.elim hsknp hwait)
    · exact hrnd x nn hi
  by_cases htimer : UsesTimer i
  · obtain ⟨x, rfl | rfl | rfl⟩ := htimer <;> cases hx <;> rfl
  · obtain ⟨-, -, htone, -, -⟩ := exec_keeps hx
    obtain ⟨hdt, hst⟩ := exec_keeps_timers htimer hx
    have ht : t.setOutside s.dt s.st s.tone l = { t with inputs := l } := by
      rw [← hdt, ← hst, ← htone]
      rfl
    exact ht ▸ exec_setOutside htimer hx s.dt s.st s.tone (absurd · hnot)

/-- Settles O52: a timer step only sets the timers and the tone, from timers that the instruction leaves alone
(`exec_setOutside`, `exec_keeps_timers`). -/
theorem timerStepCommutesWithOtherInstructions : Obligations.TimerStepCommutesWithOtherInstructions := by
  intro i s t hi hx
  have htimer : ¬ UsesTimer i := by
    rintro ⟨x, h⟩
    obtain ⟨hread, hdelay, hsound⟩ := hi x
    exact h.elim hread (·.elim hdelay hsound)
  obtain ⟨-, -, -, hinputs, -⟩ := exec_keeps hx
  obtain ⟨hdt, hst⟩ := exec_keeps_timers htimer hx
  have ht : t.setOutside s.timerStep.dt s.timerStep.st s.timerStep.tone s.inputs = t.timerStep := by
    rw [State.timerStep_dt, State.timerStep_st, State.timerStep_tone, ← hdt, ← hst, ← hinputs]
    rfl
  exact ht ▸ exec_setOutside htimer hx s.timerStep.dt s.timerStep.st s.timerStep.tone fun _ => rfl

end Sys2Proof.Machine
end

section

namespace Sys2Proof.Machine

/-! ### The step of a running machine, by its trigger (70_reset_and_hazards.md R370) -/

theorem step_instruction {s : State} (hr : s.runState = .running) (ht : s.input.tick = .instruction) :
    step s = endStep (instructionStep s) := by
  simp only [step, hr, ht]

theorem step_timer {s : State} (hr : s.runState = .running) (ht : s.input.tick = .timer) :
    step s = .next s.timerStep.nextInput := by
  simp only [step, hr, ht, endStep]

theorem step_cancel {s : State} (hr : s.runState = .running) (ht : s.input.tick = .cancel) :
    step s = .next s.cancel.nextInput := by
  simp only [step, hr, ht, endStep]

theorem instructionStep_op {s : State} {i : Instr} (h : decode s.fetch.ir = .op i) :
    instructionStep s = exec i s.fetch := by
  rw [instructionStep, h]

theorem instructionStep_unknown {s : State} (h : decode s.fetch.ir = .unknownOpcode) :
    instructionStep s = .next (s.fetch.raise .unknownOpcode) := by
  rw [instructionStep, h]

theorem instructionStep_answers (s : State) : ∃ t, instructionStep s = .next t := by
  cases hd : decode s.fetch.ir with
  | op i =>
    obtain ⟨t, ht⟩ := exec_answers i s.fetch
    exact ⟨t, (instructionStep_op hd).trans ht⟩
  | unknownOpcode => exact ⟨_, instructionStep_unknown hd⟩

/-! ### Fetch (20_memory.md R74, R75) -/

/-- Settles O10: IR is the word of the two bytes (`wordOfBytes_toNat`); the fetch writes pc_fetch, IR and pc. -/
theorem fetchReadsTwoBytesBigEndian : Obligations.FetchReadsTwoBytesBigEndian := by
  intro s
  refine ⟨?_, rfl, ?_, rfl⟩
  · rw [State.fetch_ir, wordOfBytes_toNat, State.memRead, State.memRead]
  · rw [State.fetch_pc, BitVec.toNat_add]
    rfl

/-! ### Instruction steps -/

/-- Settles O11: the two bytes at pc are what the fetch puts into IR (`instructionStep_op`), and the end of the step uses up
its inputs. -/
theorem stepRunsTheDecodedInstruction : Obligations.StepRunsTheDecodedInstruction := by
  intro s i hr ht hd
  have hstep : step s = endStep (exec i s.fetch) := by rw [step_instruction hr ht, instructionStep_op hd]
  exact ⟨hstep, fun t hx => by rw [hstep, hx, endStep]⟩

/-- Settles O12: the decoder selects nothing for an illegal word (`decode_of_illegal`), so the step raises UnknownOpcode
right after the fetch. -/
theorem illegalWordTakesUnknownOpcode : Obligations.IllegalWordTakesUnknownOpcode := by
  rintro s w hr ht rfl hw
  rw [step_instruction hr ht, instructionStep_unknown (decode_of_illegal hw)]
  rfl

/-- The word placed at pc is the one the fetch reads (`State.withFetchWord_bytes`). -/
theorem State.withFetchWord_ir {s : State} (h : Memory.wf s.mem = true) {w : Nat} (hw : w < 65536) :
    (s.withFetchWord 16 w).fetch.ir = BitVec.ofNat 16 w := by
  obtain ⟨h0, h1⟩ := State.withFetchWord_bytes h hw
  rw [State.fetch_ir, State.withFetchWord_pc, h0, h1, wordOfBytes_bytesOfWord]

/-- A word of the opcode table decodes as the word that its bits are. -/
theorem decode_of_decodeTableWord {w : Nat} {i : Instr} (hw : w < 65536) (h : decodeTableWord 16 w = some i) :
    decode (BitVec.ofNat 16 w) = .op i := by
  have e : w % 2 ^ 16 = w := Nat.mod_eq_of_lt hw
  rw [decodeTableWord, e, decodeBytes, wordOfBytes_bytesOfWord] at h
  split at h
  · next j hd => rw [hd, Option.some.inj h]
  · cases h

/-- Settles O57: the fetch reads the placed word (`State.withFetchWord_ir`), the machine runs and the step services an
instruction tick. -/
theorem placedWordIsTheNextInstruction : Obligations.PlacedWordIsTheNextInstruction := by
  intro s w i hmem hw hd
  have hir := State.withFetchWord_ir hmem hw
  refine ⟨?_, hir⟩
  rw [step_instruction (s.withFetchWord_runState 16 w) (s.withFetchWord_tick 16 w), instructionStep_op]
  rw [hir, decode_of_decodeTableWord hw hd]

/-! ### Timer ticks and the cancellation (60_exceptions.md R320, R328) -/

/-- Settles O14: the step is `State.timerStep` (`step_timer`), whose timers saturate (`timerDecrement_toNat`); the tone is the
test of the new ST. -/
theorem timerTickDecrementsBothTimers : Obligations.TimerTickDecrementsBothTimers := by
  intro s hr ht
  have hdec : ∀ b : Byte, (timerDecrement b).toNat = if b.toNat = 0 then 0 else b.toNat - 1 := by
    intro b
    rw [timerDecrement_toNat]
    split <;> omega
  have htone : decide (timerDecrement s.st ≠ 0#8) = true ↔ (timerDecrement s.st).toNat ≠ 0 :=
    decide_eq_true_iff.trans BitVec.toNat_inj.not.symm
  exact ⟨_, step_timer hr ht, hdec s.dt, hdec s.st, htone, rfl⟩

theorem run_succ_of_step (M : Host.Core) {s u : M.State} (h : M.step s = .next u) (n : Nat) :
    M.run (n + 1) s = M.run n u := by
  rw [Host.Core.run, h]

/-- The induction is over the ticks: one step takes one input and one from each timer. -/
theorem run_timer_ticks (n : Nat) {s : State} (hr : s.runState = .running) (hlen : n ≤ s.inputs.length)
    (hticks : ∀ i ∈ s.inputs.take n, i.tick = .timer) :
    ∃ t : State, Host.Core.run core n s = .next t ∧ t.dt.toNat = s.dt.toNat - n ∧ t.st.toNat = s.st.toNat - n := by
  induction n generalizing s with
  | zero => exact ⟨s, rfl, rfl, rfl⟩
  | succ n ih =>
    cases hin : s.inputs with
    | nil => simp [hin] at hlen
    | cons i rest =>
      rw [hin, List.length_cons] at hlen
      rw [hin, List.take_succ_cons, List.forall_mem_cons] at hticks
      obtain ⟨hi, hrest⟩ := hticks
      have hs : step s = .next s.timerStep.nextInput := step_timer hr (by rw [State.input, hin, hi])
      have htail : s.timerStep.nextInput.inputs = rest := by
        rw [State.nextInput_inputs, State.timerStep_inputs, hin, List.tail_cons]
      obtain ⟨t, hrun, hdt, hst⟩ := ih (s := s.timerStep.nextInput) hr (by rw [htail]; omega) (by rwa [htail])
      rw [State.nextInput_dt, State.timerStep_dt, timerDecrement_toNat, Nat.sub_sub, Nat.add_comm 1] at hdt
      rw [State.nextInput_st, State.timerStep_st, timerDecrement_toNat, Nat.sub_sub, Nat.add_comm 1] at hst
      exact ⟨t, (run_succ_of_step core hs n).trans hrun, hdt, hst⟩

/-- Settles O15: see `run_timer_ticks`. -/
theorem timersSaturateAtZeroOverARun : Obligations.TimersSaturateAtZeroOverARun := fun n _ => run_timer_ticks n

/-- Settles O16: the step is `State.cancel` (`step_cancel`); without a record the fault port shows 0, and a stopped machine
makes no step (`step_of_stopped`). -/
theorem cancellationStopsTheRun : Obligations.CancellationStopsTheRun := by
  intro s hr ht
  refine ⟨_, step_cancel hr ht, rfl, fun hfault => ?_, step_of_stopped rfl⟩
  rw [State.ports, State.nextInput_fault, State.cancel_fault, hfault]
  rfl

/-! ### Every step (10_state.md R48, R51) -/

/-- Settles O55: by the cases of a step (`step_cases`); an instruction keeps the configuration (`exec_keeps_configuration`),
and no other update writes it. -/
theorem configurationIsFixedForTheRun : Obligations.ConfigurationIsFixedForTheRun := by
  intro s t hstep
  obtain ⟨-, ⟨-, i, u, -, hx, rfl⟩ | ⟨-, -, rfl⟩ | ⟨-, rfl⟩ | ⟨-, rfl⟩⟩ := step_cases hstep
  · obtain ⟨hquirks, hparams⟩ := exec_keeps_configuration hx
    exact ⟨hquirks, hparams⟩
  all_goals exact ⟨rfl, rfl⟩

theorem step_of_running {s : State} (hr : s.runState = .running) : ∃ t, step s = .next t := by
  cases ht : s.input.tick with
  | instruction =>
    obtain ⟨t, hi⟩ := instructionStep_answers s
    exact ⟨t.nextInput, by rw [step_instruction hr ht, hi, endStep]⟩
  | timer => exact ⟨_, step_timer hr ht⟩
  | cancel => exact ⟨_, step_cancel hr ht⟩

/-- Settles O56: by run state (`step_of_running`, `step_of_stopped`). -/
theorem onlyAStoppedMachineMakesNoStep : Obligations.OnlyAStoppedMachineMakesNoStep := fun s =>
  (RunState.eq_running_or_eq_stopped s.runState).imp (fun h => ⟨h, step_of_running h⟩) fun h => ⟨h, step_of_stopped h⟩

end Sys2Proof.Machine
end

section

namespace Sys2Proof.Machine

/-! ### Construction (70_reset_and_hazards.md R350-R354) -/

/-- The memory that construction leaves: zeroed, then the font, then the ROM, cut to its space. -/
def Build.memory (b : Build) : Memory :=
  Memory.writeList (Memory.writeList Memory.zeroed b.params.fontBase b.fontData.toList) 0x200 (b.rom.take romSpace)

theorem Params.wellFormed_of_le {p : Params} (h : p.fontBase + 80 ≤ 0x200) : p.wellFormed = true := decide_eq_true h

theorem construct_accepted {b : Build} (hfont : b.params.fontBase + 80 ≤ 0x200)
    (hrom : ¬ (romSpace < b.rom.length ∧ b.romOversize = .reject)) :
    construct b = .next { State.reset with quirks := b.quirks, params := b.params, mem := b.memory } := by
  rw [construct, if_pos (Params.wellFormed_of_le hfont), if_neg hrom]
  rfl

theorem construct_rejected {b : Build} (hfont : b.params.fontBase + 80 ≤ 0x200) (hlen : romSpace < b.rom.length)
    (hsize : b.romOversize = .reject) : construct b = .fault .romTooLarge := by
  rw [construct, if_pos (Params.wellFormed_of_le hfont), if_pos ⟨hlen, hsize⟩]

/-- Settles O3: the two settings are the two outcomes of the length test; the cut ROM is not too long, and cutting it again
changes nothing. -/
theorem oversizedRomIsRejectedOrTruncated : Obligations.OversizedRomIsRejectedOrTruncated := by
  intro b hfont hlen
  refine ⟨construct_rejected hfont hlen, fun hsize => ⟨_, construct_accepted hfont (by simp [hsize]), ?_⟩⟩
  rw [construct_accepted (b := { b with rom := b.rom.take 3584 }) hfont (by simp [romSpace])]
  simp [Build.memory, romSpace, List.take_take]

section
variable {b : Build} (hfont : b.params.fontBase + 80 ≤ 0x200) (hrom : b.rom.length ≤ 3584)

theorem Build.font_wf (b : Build) :
    Memory.wf (Memory.writeList Memory.zeroed b.params.fontBase b.fontData.toList) = true :=
  Memory.wf_writeList Memory.zeroed_wf _ _

include hrom in
theorem Build.take_rom : b.rom.take romSpace = b.rom := List.take_of_length_le hrom

include hrom in
/-- The ROM goes into `0x200 ≤ a < 0x200 + length`; every other address still has what the font's copy left. -/
theorem Build.memory_read_outside_rom {a : Nat} (ha : a < 0x200 ∨ 0x200 + b.rom.length ≤ a) :
    b.memory.read a = (Memory.writeList Memory.zeroed b.params.fontBase b.fontData.toList).read a := by
  refine Memory.read_writeList_other b.font_wf fun k hk => ?_
  rw [Build.take_rom hrom] at hk
  omega

include hrom in
theorem Build.memory_read_rom {k : Nat} (hk : k < b.rom.length) : b.memory.read (0x200 + k) = b.rom[k] := by
  have := Memory.read_writeList_at b.font_wf (base := 0x200) (bs := b.rom) (by omega) k hk
  rwa [Build.memory, Build.take_rom hrom, ← Nat.mod_eq_of_lt (a := 0x200 + k) (b := 4096) (by omega)]

include hfont hrom in
/-- The font lies below the ROM (R353), so the ROM's copy leaves it. -/
theorem Build.memory_read_font (k : Fin 80) : b.memory.read (b.params.fontBase + k) = b.fontData[k] := by
  have hk := k.isLt
  rw [b.memory_read_outside_rom hrom (.inl (by omega))]
  have := Memory.read_writeList_at Memory.zeroed_wf (base := b.params.fontBase) (bs := b.fontData.toList) (by simp) k
    (by simp)
  rw [Nat.mod_eq_of_lt (by omega)] at this
  simpa using this

include hfont hrom in
theorem Build.memory_read_elsewhere {a : Nat} (ha : a < 4096) (hf : a < b.params.fontBase ∨ b.params.fontBase + 80 ≤ a)
    (hr : a < 0x200 ∨ 0x200 + b.rom.length ≤ a) : b.memory.read a = 0x00#8 := by
  rw [b.memory_read_outside_rom hrom hr, Memory.read_writeList_other Memory.zeroed_wf, Memory.read_zeroed ha]
  intro k hk
  have : k < 80 := by simpa using hk
  omega

end

/-- Settles O2: the font and the ROM are read back where they are written, every other address is as zeroed
(`Build.memory_read_font`, `Build.memory_read_rom`, `Build.memory_read_elsewhere`). -/
theorem constructionPlacesFontAndRom : Obligations.ConstructionPlacesFontAndRom := by
  intro b hfont hrom
  refine ⟨_, construct_accepted hfont (fun h => Nat.not_lt.mpr hrom h.1), fun k => ?_, fun k hk => ?_,
    fun a ha hf hr => ?_, rfl⟩
  · have hk := k.isLt
    rw [State.memRead, Nat.mod_eq_of_lt (by omega)]
    exact b.memory_read_font hfont hrom k
  · rw [State.memRead, Nat.mod_eq_of_lt (by omega)]
    exact b.memory_read_rom hrom hk
  · rw [State.memRead, Nat.mod_eq_of_lt ha]
    exact b.memory_read_elsewhere hfont hrom ha hf hr

/-! ### Reset (10_state.md R55) -/

/-- Writing the default font over the zeroed memory gives the reset contents, which list nothing (log 2). -/
theorem Build.memory_withRom_nil : (Build.withRom []).memory = [] := by decide +kernel

/-- Settles O1: reset reads as unlisted memory, 0x00 beyond the font (`Memory.unlisted_above`), and construction with an empty
ROM puts the font where reset has it (`Build.memory_withRom_nil`). -/
theorem resetHoldsTheSpecValues : Obligations.ResetHoldsTheSpecValues := by
  have hconstruct : construct (Build.withRom []) = .next State.reset := by
    rw [construct_accepted (by decide) (by decide), Build.memory_withRom_nil]
    rfl
  have hbeyond : ∀ a, 80 ≤ a → a < 4096 → State.reset.memRead a = 0x00#8 := fun a h80 ha => by
    rw [State.memRead, Nat.mod_eq_of_lt ha]
    exact Memory.unlisted_above h80
  exact ⟨fun r => Vector.getElem_replicate r.isLt, rfl, rfl, rfl, rfl, rfl, rfl, Frame.cell_clear, rfl, hbeyond,
    rfl, rfl, rfl, rfl, rfl, hconstruct⟩

end Sys2Proof.Machine
end

section

namespace Sys2Proof.Machine

/-! ### The memory transfers through I (42_index_memory.md R224-R227) -/

theorem exec_ldB (x : Nibble) (s : State) :
    exec (.ldB x) s = .next (s.memWrite (s.effective 0) (bcdDigits (s.reg x))) := rfl

theorem exec_storeRegs (x : Nibble) (s : State) : exec (.storeRegs x) s =
    .next ((s.memWrite (s.effective 0) (s.firstRegs (x.toNat + 1))).setIdx (s.indexAfterTransfer x)) := rfl

theorem exec_loadRegs (x : Nibble) (s : State) : exec (.loadRegs x) s =
    .next ((s.loadFirstRegs (s.effective 0) (x.toNat + 1)).setIdx (s.indexAfterTransfer x)) := rfl

theorem byte_ofNat_toNat {n : Nat} (h : n < 256) : (BitVec.ofNat 8 n).toNat = n := by
  rw [BitVec.toNat_ofNat, Nat.mod_eq_of_lt h]

/-- Settles O33: the three digits are written from I upwards and read back there; every other byte is as before
(`State.memWrite_read_at`, `State.memWrite_read_other`). -/
theorem bcdStoresThreeDigits : Obligations.BcdStoresThreeDigits := by
  intro x s hmem
  have hx := (s.reg x).isLt
  have hlen : (bcdDigits (s.reg x)).length = 3 := rfl
  have hread := State.memWrite_read_at hmem (s.effective 0) (bs := bcdDigits (s.reg x)) (by omega)
  refine ⟨decode_wordX x rfl decode_ldB, _, exec_ldB x s, ?_, ?_, ?_,
    fun a ha => State.memWrite_read_other hmem _ a fun k hk => (ha k hk).symm, rfl⟩
  · exact (congrArg BitVec.toNat (hread 0 (by omega))).trans (byte_ofNat_toNat (by omega))
  · exact (congrArg BitVec.toNat (hread 1 (by omega))).trans (byte_ofNat_toNat (by omega))
  · exact (congrArg BitVec.toNat (hread 2 (by omega))).trans (byte_ofNat_toNat (by omega))

/-- After FX55 the byte of V[r] stands at I + r, for I before the instruction. -/
theorem storeRegs_memRead {x r : Nibble} {s t : State} (hmem : Memory.wf s.mem = true) (hx : exec (.storeRegs x) s = .next t)
    (hr : r.toNat ≤ x.toNat) : t.memRead (s.effective r.toNat) = s.reg r := by
  have hx16 := x.isLt
  cases hx
  have hlen : r.toNat < (s.firstRegs (x.toNat + 1)).length := by rw [State.firstRegs_length]; omega
  calc State.memRead _ (s.effective r.toNat)
      = (s.firstRegs (x.toNat + 1))[r.toNat] := State.memWrite_read_at hmem _ (by rw [State.firstRegs_length]; omega) _ hlen
    _ = s.reg r := by rw [State.firstRegs_getElem, BitVec.ofNat_toNat, BitVec.setWidth_eq]

theorem State.indexAfterTransfer_toNat (s : State) (x : Nibble) : (s.indexAfterTransfer x).toNat =
    if s.quirks.incrementIndexRegisterOnLoadSave then (s.idx.toNat + x.toNat) % 65536 else s.idx.toNat := by
  have hx := x.isLt
  unfold State.indexAfterTransfer
  split
  · rw [BitVec.toNat_add, BitVec.toNat_setWidth, Nat.mod_eq_of_lt (by omega : x.toNat < 2 ^ 16)]
  · rfl

/-- Settles O34: the registers are read back where they are written (`storeRegs_memRead`), every other byte is as before. -/
theorem storeRegistersFillsMemory : Obligations.StoreRegistersFillsMemory := by
  intro x s hmem
  refine ⟨decode_wordX x rfl decode_storeRegs, _, exec_storeRegs x s,
    fun r => storeRegs_memRead hmem (exec_storeRegs x s), fun a ha => ?_, s.indexAfterTransfer_toNat x, rfl⟩
  refine State.memWrite_read_other hmem _ a fun k hk => (ha k ?_).symm
  rw [State.firstRegs_length] at hk
  omega

/-- A register after FX65. -/
theorem loadRegs_reg {x r : Nibble} {s t : State} (hx : exec (.loadRegs x) s = .next t) :
    t.reg r = if r.toNat ≤ x.toNat then s.memRead (s.effective r.toNat) else s.reg r := by
  cases hx
  simp only [← Nat.lt_succ_iff]
  exact s.loadFirstRegs_reg (s.effective 0) x.isLt r

/-- Settles O35: registers by `loadRegs_reg`; read back over the memory that FX55 left, they are the ones stored
(`storeRegs_memRead`), since without the quirk I has not moved. -/
theorem loadRegistersReadsMemoryBack : Obligations.LoadRegistersReadsMemoryBack := by
  refine ⟨fun x s => ?_, fun x s u w hmem hquirk hstore hwmem hwidx => ?_⟩
  · have hreg := fun r => loadRegs_reg (r := r) (exec_loadRegs x s)
    refine ⟨decode_wordX x rfl decode_loadRegs, _, exec_loadRegs x s, fun r hr => (hreg r).trans (if_pos hr),
      fun r hr => (hreg r).trans (if_neg (Nat.not_le.mpr hr)), s.indexAfterTransfer_toNat x, fun a => ?_, ?_⟩
    · rw [State.setIdx_memRead, State.memRead, State.loadFirstRegs_mem, ← State.memRead]
    · rw [State.loadFirstRegs_eq]
      rfl
  · refine ⟨_, exec_loadRegs x w, fun r hr => ?_⟩
    have huidx : u.idx = s.idx := by
      by_contra hne
      cases hstore
      rw [State.indexAfterTransfer_changes hne] at hquirk
      cases hquirk
    calc State.reg _ r
        = w.memRead (w.effective r.toNat) := (loadRegs_reg (exec_loadRegs x w)).trans (if_pos hr)
      _ = u.memRead (s.effective r.toNat) := by
          simp only [State.memRead, State.effective, hwmem, hwidx, huidx]
      _ = s.reg r := storeRegs_memRead hmem hstore hr

/-- Addresses that agree modulo 4096 name the same byte (20_memory.md R72). -/
theorem State.memRead_congr (s : State) {a b : Nat} (h : a % 4096 = b % 4096) : s.memRead a = s.memRead b := by
  rw [State.memRead, h, ← State.memRead]

/-- Settles O36: the fetch reads the bytes at pc and pc + 1, which are those at I and I + 1 that FX55 has just stored
(`storeRegs_memRead`). -/
theorem storedBytesAreFetchedNext : Obligations.StoredBytesAreFetchedNext := by
  intro x s t hmem hx hpc hstore
  have hread : ∀ r : Nibble, r.toNat ≤ x.toNat → t.memRead (t.pc.toNat + r.toNat) = s.reg r := by
    intro r hr
    rw [← storeRegs_memRead hmem hstore hr]
    refine t.memRead_congr ?_
    cases hstore
    show (s.pc.toNat + r.toNat) % 4096 = (s.idx.toNat + r.toNat) % 4096
    omega
  rw [State.fetch_ir]
  exact congrArg₂ wordOfBytes (hread 0x0#4 (Nat.zero_le _)) (hread 0x1#4 hx)

end Sys2Proof.Machine
end

section

namespace Sys2Proof.Machine

/-! ### Draw sprite (43_sprite_display.md R252-R258) -/

theorem flagByte_eq_one (f : Bool) : flagByte f = 1#8 ↔ f = true := by cases f <;> decide

theorem flagByte_eq_zero_or_one (f : Bool) : flagByte f = 0#8 ∨ flagByte f = 1#8 := by cases f <;> decide

/-- Whether the sprite that DXYN draws in `s` has a 1 bit on the cell (R253, R254). -/
def State.drawnBit (s : State) (x y n : Nibble) (px py : Nat) : Bool :=
  s.spriteBit (s.effective 0) ((s.reg x).toNat % 64) ((s.reg y).toNat % 32) n.toNat px py

section
variable {x y n : Nibble} {s t : State} (hx : exec (.drw x y n) s = .next t)
include hx

theorem drw_cell {px py : Nat} (hpx : px < 64) (hpy : py < 32) :
    Frame.cell t.fb px py = (Frame.cell s.fb px py ^^ s.drawnBit x y n px py) := by
  cases hx
  exact s.drawRows_cell _ _ _ _ px py hpx hpy

/-- V[0xF] alone is written, with 1 exactly when the sprite has a bit on a cell that was set (R257). -/
theorem drw_reg : ∃ hit : Bool, t.reg 0xF#4 = flagByte hit ∧ (∀ r, r ≠ 0xF#4 → t.reg r = s.reg r) ∧
    (hit = true ↔ ∃ px < 64, ∃ py < 32, s.drawnBit x y n px py = true ∧ Frame.cell s.fb px py = true) := by
  cases hx
  exact ⟨_, State.setReg_reg_same _ flagReg _, fun r hr => State.setReg_reg_other _ _ hr, s.drawRows_hit _ _ _ _⟩

/-- The collision as the change that is seen: a cell that was set is clear. -/
theorem drw_flag : t.reg 0xF#4 = 1#8 ↔
    ∃ px < 64, ∃ py < 32, Frame.cell s.fb px py = true ∧ Frame.cell t.fb px py = false := by
  obtain ⟨hit, hflag, -, hhit⟩ := drw_reg hx
  rw [hflag, flagByte_eq_one, hhit]
  refine exists_congr fun px => and_congr_right fun hpx => exists_congr fun py => and_congr_right fun hpy => ?_
  rw [drw_cell hx hpx hpy]
  cases Frame.cell s.fb px py <;> cases s.drawnBit x y n px py <;> decide

theorem drw_frame : t = { s with v := t.v, fb := t.fb, published := t.fb :: s.published } := by
  cases hx
  rfl

end

/-- Settles O38: the cells by `drw_cell`, V[0xF] and the other registers by `drw_reg` and `drw_flag`, the rest by
`drw_frame`. -/
theorem drawXorsTheClippedSprite : Obligations.DrawXorsTheClippedSprite := by
  intro x y n s
  obtain ⟨t, hx⟩ := exec_answers (.drw x y n) s
  obtain ⟨hit, hflag, hreg, -⟩ := drw_reg hx
  have hframe := drw_frame hx
  refine ⟨t, hx, fun px hpx py hpy => drw_cell hx hpx hpy, ?_, drw_flag hx, hreg, fun a => ?_, hframe⟩
  · rw [hflag]
    exact flagByte_eq_zero_or_one hit
  · rw [hframe]
    rfl

/-- The sprite is the same as long as memory, I and the two coordinates are. -/
theorem State.drawnBit_congr {x y n : Nibble} {s t : State} (hmem : t.mem = s.mem) (hidx : t.idx = s.idx)
    (hcol : (t.reg x).toNat % 64 = (s.reg x).toNat % 64) (hrow : (t.reg y).toNat % 32 = (s.reg y).toNat % 32) (px py : Nat) :
    t.drawnBit x y n px py = s.drawnBit x y n px py := by
  simp only [State.drawnBit, State.spriteBit, State.memRead, State.effective, hmem, hidx, hcol, hrow]

/-- Settles O39: both draws have the same sprite (`State.drawnBit_congr`), and XOR with it twice is nothing (`drw_cell`); a
cell that was clear under a 1 bit was set by the first draw and is cleared by the second (`drw_flag`). -/
theorem drawingTwiceRestoresTheBuffer : Obligations.DrawingTwiceRestoresTheBuffer := by
  intro x y n s t hx hcol hrow
  obtain ⟨u, hu⟩ := exec_answers (.drw x y n) t
  have hframe := drw_frame hx
  have hmem : t.mem = s.mem := by rw [hframe]
  have hidx : t.idx = s.idx := by rw [hframe]
  have hbit := State.drawnBit_congr (n := n) hmem hidx hcol hrow
  have hcell : ∀ px < 64, ∀ py < 32, Frame.cell u.fb px py = Frame.cell s.fb px py := fun px hpx py hpy => by
    rw [drw_cell hu hpx hpy, drw_cell hx hpx hpy, hbit, Bool.xor_assoc, Bool.xor_self, Bool.xor_false]
  refine ⟨u, hu, Frame.ext_cell hcell, ?_⟩
  rintro ⟨px, hpx, py, hpy, hclear, hset⟩
  refine (drw_flag hu).mpr ⟨px, hpx, py, hpy, ?_, (hcell px hpx py hpy).trans hclear⟩
  rw [drw_cell hx hpx hpy, hclear, Bool.false_xor]
  exact hset

theorem Frame.toPort_getLsbD (fb : Frame) {k : Nat} (hk : k < 2048) :
    fb.toPort.getLsbD k = Frame.cell fb (k % 64) (k / 64) := by
  rw [Frame.toPort, BitVec.getLsbD_ofFnLE, dif_pos hk]

/-- Settles O40: bit k of the port is the cell in column k mod 64, row k div 64 (`Frame.toPort_getLsbD`), and the division
gives x and y back. -/
theorem framePortCarriesTheCells : Obligations.FramePortCarriesTheCells := by
  intro s x y hx hy
  have hk : 64 * y + x < 2048 := by omega
  have hcol : (64 * y + x) % 64 = x := by omega
  have hrow : (64 * y + x) / 64 = y := by omega
  rw [State.ports, Frame.toPort_getLsbD s.fb hk, hcol, hrow]

end Sys2Proof.Machine
end

section

namespace Sys2Proof.Machine

/-! ### Logic operations (41_alu.md R184-R186) -/

theorem exec_orReg (x y : Nibble) (s : State) : exec (.orReg x y) s = .next (s.setReg x (s.reg x ||| s.reg y)) := rfl

theorem exec_andReg (x y : Nibble) (s : State) : exec (.andReg x y) s = .next (s.setReg x (s.reg x &&& s.reg y)) := rfl

theorem exec_xorReg (x y : Nibble) (s : State) : exec (.xorReg x y) s = .next (s.setReg x (s.reg x ^^^ s.reg y)) := rfl

/-- Settles O20: each is one register write, which is no write of V[0xF] unless that is the destination. -/
theorem logicOperationsLeaveTheFlag : Obligations.LogicOperationsLeaveTheFlag := fun x y s =>
  ⟨⟨_, exec_orReg x y s, s.setReg_reg_same x _, s.setReg_onlyRegisters x _⟩,
    ⟨_, exec_andReg x y s, s.setReg_reg_same x _, s.setReg_onlyRegisters x _⟩,
    ⟨_, exec_xorReg x y s, s.setReg_reg_same x _, s.setReg_onlyRegisters x _⟩⟩

/-! ### A result and a flag (10_state.md R36) -/

section
variable (s : State) (x : Nibble) (b : Byte) (f : Bool)

/-- The flag is written last, so it wins when X = 0xF (decision D2). -/
theorem State.setRegFlag_flag : (s.setRegFlag x b f).reg 0xF#4 = flagByte f := by
  rw [State.setRegFlag_reg, if_pos (show 0xF#4 = flagReg from rfl)]

theorem State.setRegFlag_result (hx : x ≠ 0xF#4) : (s.setRegFlag x b f).reg x = b := by
  rw [State.setRegFlag_reg, if_neg (show x ≠ flagReg from hx), if_pos rfl]

/-- The frame of every instruction that writes a result and a flag. -/
theorem State.setRegFlag_onlyRegisters : OnlyRegisters s (s.setRegFlag x b f) [x, 0xF#4] := by
  refine ⟨fun r hr => ?_, s.setRegFlag_memRead x b f, s.setRegFlag_eq x b f⟩
  obtain ⟨hrx, hrf⟩ : r ≠ x ∧ r ≠ flagReg := by simpa [flagReg] using hr
  rw [State.setRegFlag_reg, if_neg hrf, if_neg hrx]

end

theorem flagByte_toNat (f : Bool) : (flagByte f).toNat = f.toNat := by cases f <;> rfl

/-- A flag that is the test of a condition. -/
theorem flagByte_decide (p : Prop) [Decidable p] : flagByte (decide p) = if p then 1#8 else 0#8 := by
  simp only [flagByte, decide_eq_true_eq]

/-! ### Add, the two subtractions, the two shifts (41_alu.md R187-R191) -/

theorem exec_addReg (x y : Nibble) (s : State) : exec (.addReg x y) s =
    .next (s.setRegFlag x (s.reg x + s.reg y) (carryFlag (s.reg x) (s.reg y))) := rfl

theorem exec_subReg (x y : Nibble) (s : State) : exec (.subReg x y) s =
    .next (s.setRegFlag x (s.reg x - s.reg y) (noBorrowFlag (s.reg x) (s.reg y))) := rfl

theorem exec_subnReg (x y : Nibble) (s : State) : exec (.subnReg x y) s =
    .next (s.setRegFlag x (s.reg y - s.reg x) (lessFlag (s.reg x) (s.reg y))) := rfl

theorem exec_shrReg (x y : Nibble) (s : State) : exec (.shrReg x y) s =
    .next (s.setRegFlag x (s.shiftSource x y >>> 1) (shiftedOutRight (s.shiftSource x y))) := rfl

theorem exec_shlReg (x y : Nibble) (s : State) : exec (.shlReg x y) s =
    .next (s.setRegFlag x (s.shiftSource x y <<< 1) (shiftedOutLeft (s.shiftSource x y))) := rfl

/-- Settles O21: the carry is the test of the unreduced sum (`flagByte_decide`), the result the sum modulo 256. -/
theorem addSetsCarry : Obligations.AddSetsCarry := by
  intro x y s
  refine ⟨_, exec_addReg x y s, (s.setRegFlag_flag x _ _).trans (flagByte_decide _), fun hx => ?_,
    s.setRegFlag_onlyRegisters x _ _⟩
  rw [s.setRegFlag_result x _ _ hx, BitVec.toNat_add]

theorem byte_sub_toNat (a b : Byte) : (a - b).toNat = (a.toNat + 256 - b.toNat) % 256 := by
  have hb := b.isLt
  rw [BitVec.toNat_sub]
  omega

/-- Settles O22: the flags are the two comparisons (`flagByte_decide`), the results the differences modulo 256
(`byte_sub_toNat`). -/
theorem subtractionsSetTheirFlags : Obligations.SubtractionsSetTheirFlags := by
  intro x y s
  refine ⟨⟨_, exec_subReg x y s, (s.setRegFlag_flag x _ _).trans (flagByte_decide _), fun hx => ?_,
      s.setRegFlag_onlyRegisters x _ _⟩,
    ⟨_, exec_subnReg x y s, (s.setRegFlag_flag x _ _).trans (flagByte_decide _), fun hx => ?_,
      s.setRegFlag_onlyRegisters x _ _⟩⟩
  · rw [s.setRegFlag_result x _ _ hx, byte_sub_toNat]
  · rw [s.setRegFlag_result x _ _ hx, byte_sub_toNat]

theorem shiftedOutRight_toNat (a : Byte) : (shiftedOutRight a).toNat = a.toNat % 2 := by
  rw [shiftedOutRight, BitVec.getLsbD, Nat.toNat_testBit, pow_zero, Nat.div_one]

theorem shiftedOutLeft_toNat (a : Byte) : (shiftedOutLeft a).toNat = a.toNat / 128 := by
  have ha := a.isLt
  rw [shiftedOutLeft, BitVec.getLsbD, Nat.toNat_testBit]
  omega

/-- Settles O23: the shift source is the quirk's choice, the flag its lowest or highest bit, the result half of it or twice
it modulo 256. -/
theorem shiftsMoveOneBitIntoTheFlag : Obligations.ShiftsMoveOneBitIntoTheFlag := by
  rintro x y s src hsrc
  obtain rfl : s.shiftSource x y = src := hsrc.symm
  refine ⟨⟨_, exec_shrReg x y s, ?_, fun hx => ?_, s.setRegFlag_onlyRegisters x _ _⟩,
    ⟨_, exec_shlReg x y s, ?_, fun hx => ?_, s.setRegFlag_onlyRegisters x _ _⟩⟩
  · rw [s.setRegFlag_flag, flagByte_toNat, shiftedOutRight_toNat]
  · rw [s.setRegFlag_result x _ _ hx, BitVec.toNat_ushiftRight, Nat.shiftRight_eq_div_pow, pow_one]
  · rw [s.setRegFlag_flag, flagByte_toNat, shiftedOutLeft_toNat]
  · rw [s.setRegFlag_result x _ _ hx, BitVec.toNat_shiftLeft, Nat.shiftLeft_eq, pow_one]

/-! ### Random (41_alu.md R196) -/

theorem exec_rnd (x : Nibble) (nn : Byte) (s : State) : exec (.rnd x nn) s = .next (s.setReg x (s.input.rand &&& nn)) := rfl

/-- Settles O24: one register write of the step's random byte AND NN, whose bits are 0 where NN's are. -/
theorem randomIsMaskedByTheImmediate : Obligations.RandomIsMaskedByTheImmediate := by
  intro x nn s
  have hreg := s.setReg_reg_same x (s.input.rand &&& nn)
  refine ⟨_, exec_rnd x nn s, hreg, fun k hk => ?_, s.setReg_onlyRegisters x _⟩
  rw [hreg, BitVec.getLsbD_and, hk, Bool.and_false]

end Sys2Proof.Machine
end

section

namespace Sys2Proof

/-- The families that fix N = 0 have no other word (30_encoding.md R109, decision D14). -/
theorem decode_familyN_unlisted {w : Word} (hF : w.toNat / 0x1000 = 0x5 ∨ w.toNat / 0x1000 = 0x9)
    (hN : w.toNat % 0x10 ≠ 0) : decode w = .unknownOpcode := by
  have hN' : fieldN w ≠ 0x0#4 := fun h => hN ((fieldN_eq_iff w _).mp h)
  rcases hF with hF | hF
  · rw [decode_family5 ((fieldF_eq_iff w 0x5#4).mpr hF), decodeIfN0, if_neg hN']
  · rw [decode_family9 ((fieldF_eq_iff w 0x9#4).mpr hF), decodeIfN0, if_neg hN']

end Sys2Proof

namespace Sys2Proof.Machine

/-! ### Register skips and the call (40_control_flow.md R146, R149, R150) -/

theorem exec_seReg (x y : Nibble) (s : State) :
    exec (.seReg x y) s = .next { s with pc := if s.reg x = s.reg y then s.pc + 2#16 else s.pc } := by
  rw [exec, execSeReg, State.skipIf_eq]
  simp only [beq_iff_eq]

theorem exec_sneReg (x y : Nibble) (s : State) :
    exec (.sneReg x y) s = .next { s with pc := if s.reg x ≠ s.reg y then s.pc + 2#16 else s.pc } := by
  rw [exec, execSneReg, State.skipIf_eq]
  simp only [bne_iff_ne]

/-- Settles O26: family and N select both rows (`decode_wordXY`), a skip's Boolean test is its condition, and any other N
fails the decoder's one test (`decode_familyN_unlisted`). -/
theorem registerSkipsCompareTwoRegisters : Obligations.RegisterSkipsCompareTwoRegisters :=
  ⟨fun x y s => ⟨decode_wordXY x y rfl decode_seReg, decode_wordXY x y rfl decode_sneReg, exec_seReg x y s,
    exec_sneReg x y s⟩, fun _ => decode_familyN_unlisted⟩

/-- Settles O28: the test of the stack's depth decides between the two outcomes of `push`. -/
theorem callPushesTheReturnAddress : Obligations.CallPushesTheReturnAddress := fun nnn _ =>
  ⟨decode_wordNNN nnn rfl decode_family2, exec_call_room nnn, exec_call_full nnn⟩

/-! ### Add to the index (42_index_memory.md R222) -/

theorem word_add_byte_toNat (w : Word) (b : Byte) : (w + b.setWidth 16).toNat = (w.toNat + b.toNat) % 65536 := by
  have hb := b.isLt
  rw [BitVec.toNat_add, BitVec.toNat_setWidth]
  omega

/-- Settles O32: by the quirk (`exec_addI_quiet`, `exec_addI_flag`); I is the same 16-bit sum in both cases
(`word_add_byte_toNat`), and the flag is the only register that may be written. -/
theorem addIndexFlagsOverflow : Obligations.AddIndexFlagsOverflow := by
  intro x s
  have hsum := word_add_byte_toNat s.idx (s.reg x)
  cases hq : s.quirks.disableSetFlagOnIrOverflow with
  | true => exact ⟨_, exec_addI_quiet x hq, hsum, nofun, fun _ => rfl, fun _ _ => rfl, fun _ => rfl, rfl⟩
  | false =>
    refine ⟨_, exec_addI_flag x hq, hsum, fun _ => ?_, nofun, fun r hr => State.setReg_reg_other _ _ hr, fun _ => rfl, rfl⟩
    exact (State.setReg_reg_same _ flagReg _).trans (flagByte_decide _)

end Sys2Proof.Machine
end

section

namespace Sys2Proof.Machine

/-! ### Keys (44_keys_timers.md R281-R283, R285) -/

theorem State.pressedKeys_contains (s : State) (k : Nat) : s.pressedKeys.contains k = true ↔ k ∈ s.input.keys ∧ k < 16 := by
  rw [List.contains_iff_mem, State.mem_pressedKeys]

/-- Settles O41: the tested list is the report without the values above 15 (`State.pressedKeys_contains`). -/
theorem keySkipsTestTheFilteredKeys : Obligations.KeySkipsTestTheFilteredKeys := by
  intro x s
  constructor
  · rw [exec, execSkp, State.skipIf_eq]
    simp only [State.pressedKeys_contains]
  · rw [exec, execSknp, State.skipIf_eq]
    simp only [Bool.not_eq_true', ← Bool.not_eq_true, State.pressedKeys_contains, ite_not]

/-- Settles O42: the report without the values above 15 is empty, or its first key is in the report and below 16. -/
theorem keyWaitRewindsOrTakesAKey : Obligations.KeyWaitRewindsOrTakesAKey := by
  intro x s
  constructor
  · intro hnone
    refine exec_ldVxK_nil x (List.eq_nil_iff_forall_not_mem.mpr fun k hk => ?_)
    obtain ⟨hmem, hlt⟩ := State.mem_pressedKeys.mp hk
    exact hnone k hmem hlt
  · rintro ⟨j, hj⟩
    cases hkeys : s.pressedKeys with
    | nil => exact absurd (State.mem_pressedKeys.mpr hj) (by simp [hkeys])
    | cons k ks =>
      obtain ⟨hmem, hlt⟩ : k ∈ s.input.keys ∧ k < 16 := State.mem_pressedKeys.mp (by simp [hkeys])
      have hk : ((s.setReg x (BitVec.ofNat 8 k)).reg x).toNat = k := by
        rw [State.setReg_reg_same, byte_ofNat_toNat (by omega)]
      exact ⟨_, exec_ldVxK_cons x hkeys, hk.symm ▸ hmem, hk.symm ▸ hlt, s.setReg_onlyRegisters x _⟩

/-! ### Timer access (44_keys_timers.md R284, R287) -/

theorem exec_ldVxDt (x : Nibble) (s : State) : exec (.ldVxDt x) s = .next (s.setReg x s.dt) := rfl

/-- Settles O43: the low byte 0x07 selects the row for every X (`decode_wordX`), and the instruction is one register
write. -/
theorem readDelayTimerCopiesDt : Obligations.ReadDelayTimerCopiesDt := fun x s =>
  ⟨decode_wordX x rfl decode_ldVxDt, _, exec_ldVxDt x s, s.setReg_reg_same x _, s.setReg_onlyRegisters x _⟩

theorem exec_ldStVx (x : Nibble) (s : State) : exec (.ldStVx x) s = .next (s.setSt (s.reg x)) := rfl

/-- Settles O45: the instruction is one write of ST; a timer step takes ST = 1 to 0, and the tone follows the new value. -/
theorem setSoundTimerLeavesTheTone : Obligations.SetSoundTimerLeavesTheTone := by
  intro x s
  refine ⟨exec_ldStVx x s, fun hone t hx => ?_⟩
  obtain rfl : s.setSt (s.reg x) = t := by injection (exec_ldStVx x s).symm.trans hx
  rw [State.timerStep_tone, State.timerStep_st, State.setSt_st, hone]
  exact ⟨rfl, rfl⟩

end Sys2Proof.Machine
end
